-- ==== Sys2Proof/Word.lean ====
section
/-! DEFINITION. The widths of the machine's words (spec/00_scope.md R4, R5): every value is unsigned. -/

namespace Sys2Proof

/-- A byte: a memory cell, a general register, an immediate `kk` (R20, R40, R61). -/
abbrev Byte := BitVec 8

/-- A 16-bit value: an instruction word, `pc`, `I`, a call-stack entry, `fault_info` (R4). -/
abbrev Word := BitVec 16

/-- A register number: the 4-bit field `x` or `y` of an instruction word (R61). -/
abbrev RegIdx := BitVec 4

/-- A literal nibble: the 4-bit field `n` or `op` (R61). -/
abbrev Nibble := BitVec 4

/-- A 12-bit byte address: the field `nnn` (R61, R63), or the host's address port (R34). -/
abbrev Addr := BitVec 12

end Sys2Proof
end

