-- ==== Sys2Proof/Config.lean ====
section
/-! DEFINITION. What is fixed for the machine (spec/00_scope.md R4) and the one free value (spec/10_state.md R33). -/

namespace Sys2Proof.Config

/-- `MEM_SIZE` (R4): the number of memory cells; a `pc` of this value or more ends the run (R81). -/
def memSize : Nat := 4096

/-- `LOAD_ADDR` (R4): where the loader puts a program image and what it sets `pc` to (R182). -/
def loadAddr : Addr := 0x200#12

/-- `IMAGE_MAX` (R4): the largest image in bytes, `MEM_SIZE - LOAD_ADDR` (R182, D20). -/
def imageMax : Nat := 3584

/-- `VF_MIRROR` as the spec sets it by default (R4, D1).
State carries the parameter itself, so that both settings are modelled (assumption 5). -/
def vfMirrorDefault : Bool := false

/-- FREE VALUE (assumption 4): the random byte `rnd` of the `n`-th draw.
The spec puts it under no law (R33), so this constant has no body and nothing can be proved of a value of it. -/
opaque rnd : Nat → Byte

end Sys2Proof.Config
end

