-- ==== Sys2Proof/Syntax.lean ====
section
/-! DEFINITION. The instructions: one constructor for each of the 27 rows of spec/opcode_table.json
(spec/30_encoding.md R64, R73). -/

namespace Sys2Proof

/-- An instruction of the core, with every field of its word that its pattern leaves open.
A field the instruction does not use (the `y` of `SHR`, all of `DRW`) is kept, because the fault registers
record the whole word (R155) and no bit of an encoding is to be lost (assumption 8). -/
inductive Instr where
  /-- `00E0`, CLS, defined and not implemented (R141). -/
  | cls
  /-- `00EE`, RET (R90). -/
  | ret
  /-- `0FFF`, DUMP (R140). -/
  | dump
  /-- `1nnn`, JP nnn (R91). -/
  | jp (nnn : Addr)
  /-- `2nnn`, CALL nnn (R92). -/
  | call (nnn : Addr)
  /-- `3xkk`, SE Vx, kk (R100). -/
  | seImm (x : RegIdx) (kk : Byte)
  /-- `4xkk`, SNE Vx, kk (R101). -/
  | sneImm (x : RegIdx) (kk : Byte)
  /-- `5xy0`, SE Vx, Vy (R102). -/
  | seReg (x y : RegIdx)
  /-- `6xkk`, LD Vx, kk (R110). -/
  | ldImm (x : RegIdx) (kk : Byte)
  /-- `7xkk`, ADD Vx, kk (R111). -/
  | addImm (x : RegIdx) (kk : Byte)
  /-- `8xy0`, LD Vx, Vy (R120). -/
  | ldReg (x y : RegIdx)
  /-- `8xy1`, OR Vx, Vy (R121). -/
  | orReg (x y : RegIdx)
  /-- `8xy2`, AND Vx, Vy (R122). -/
  | andReg (x y : RegIdx)
  /-- `8xy3`, XOR Vx, Vy (R123). -/
  | xorReg (x y : RegIdx)
  /-- `8xy4`, ADD Vx, Vy (R124). -/
  | addReg (x y : RegIdx)
  /-- `8xy5`, SUB Vx, Vy (R125). -/
  | subReg (x y : RegIdx)
  /-- `8xy6`, SHR Vx; `y` is in the word and not used (R126). -/
  | shr (x y : RegIdx)
  /-- `8xy7`, SUBN Vx, Vy (R127). -/
  | subn (x y : RegIdx)
  /-- `8xyE`, SHL Vx; `y` is in the word and not used (R128). -/
  | shl (x y : RegIdx)
  /-- `9xy0`, SNE Vx, Vy (R103). -/
  | sneReg (x y : RegIdx)
  /-- `Annn`, LD I, nnn (R112). -/
  | ldI (nnn : Addr)
  /-- `Bnnn`, JP V0, nnn (R93). -/
  | jpV0 (nnn : Addr)
  /-- `Cxkk`, RND Vx, kk (R113). -/
  | rnd (x : RegIdx) (kk : Byte)
  /-- `Dxyn`, DRW Vx, Vy, n, defined and not implemented (R142). -/
  | drw (x y : RegIdx) (n : Nibble)
  /-- `Ex9E`, SKP Vx, defined and not implemented (R143). -/
  | skp (x : RegIdx)
  /-- `ExA1`, SKNP Vx, defined and not implemented (R144). -/
  | sknp (x : RegIdx)
  /-- `Fxxx`, the timer, sound, BCD and font family, defined and not implemented (R145). -/
  | fxxx (nnn : Addr)
  deriving DecidableEq, Repr

/-- The five patterns the table names whose execution is a fault (R147). -/
def Instr.isUnimplemented : Instr → Bool
  | .cls | .drw _ _ _ | .skp _ | .sknp _ | .fxxx _ => true
  | .ret | .dump | .jp _ | .call _ | .seImm _ _ | .sneImm _ _ | .seReg _ _ | .ldImm _ _ | .addImm _ _
  | .ldReg _ _ | .orReg _ _ | .andReg _ _ | .xorReg _ _ | .addReg _ _ | .subReg _ _ | .shr _ _ | .subn _ _
  | .shl _ _ | .sneReg _ _ | .ldI _ | .jpV0 _ | .rnd _ _ => false

/-- The five instructions that write the flag (R30, R129). -/
def Instr.writesFlag : Instr → Bool
  | .addReg _ _ | .subReg _ _ | .shr _ _ | .subn _ _ | .shl _ _ => true
  | .cls | .ret | .dump | .jp _ | .call _ | .seImm _ _ | .sneImm _ _ | .seReg _ _ | .ldImm _ _ | .addImm _ _
  | .ldReg _ _ | .orReg _ _ | .andReg _ _ | .xorReg _ _ | .sneReg _ _ | .ldI _ | .jpV0 _ | .rnd _ _
  | .drw _ _ _ | .skp _ | .sknp _ | .fxxx _ => false

/-- The register an instruction writes through its own `x` field, if any (R38). -/
def Instr.destReg : Instr → Option RegIdx
  | .ldImm x _ | .addImm x _ | .ldReg x _ | .orReg x _ | .andReg x _ | .xorReg x _ | .addReg x _ | .subReg x _
  | .shr x _ | .subn x _ | .shl x _ | .rnd x _ => some x
  | .cls | .ret | .dump | .jp _ | .call _ | .seImm _ _ | .sneImm _ _ | .seReg _ _ | .sneReg _ _ | .ldI _ | .jpV0 _
  | .drw _ _ _ | .skp _ | .sknp _ | .fxxx _ => none

end Sys2Proof
end

