-- ==== Sys2Proof/WellFormed.lean ====
section
/-! DEFINITION. What is well formed: the opcode table as masks and patterns (spec/30_encoding.md R64, R73), the words it
accepts, the instructions' own rows, and the images the loader accepts (spec/70_reset_and_hazards.md R182). -/

namespace Sys2Proof

/-- A row of the opcode table; the mnemonics are labels on which nothing may depend (R72), so a row has none. -/
structure OpRow where
  mask : Word
  pattern : Word
  deriving DecidableEq, Repr

/-- `(w & mask) == match` (R64). -/
def OpRow.accepts (r : OpRow) (w : Word) : Bool := w &&& r.mask == r.pattern

/-- The row of the table each instruction belongs to (R64, R73). -/
def Instr.row : Instr → OpRow
  | .cls => ⟨0xFFFF#16, 0x00E0#16⟩
  | .ret => ⟨0xFFFF#16, 0x00EE#16⟩
  | .dump => ⟨0xFFFF#16, 0x0FFF#16⟩
  | .jp _ => ⟨0xF000#16, 0x1000#16⟩
  | .call _ => ⟨0xF000#16, 0x2000#16⟩
  | .seImm _ _ => ⟨0xF000#16, 0x3000#16⟩
  | .sneImm _ _ => ⟨0xF000#16, 0x4000#16⟩
  | .seReg _ _ => ⟨0xF00F#16, 0x5000#16⟩
  | .ldImm _ _ => ⟨0xF000#16, 0x6000#16⟩
  | .addImm _ _ => ⟨0xF000#16, 0x7000#16⟩
  | .ldReg _ _ => ⟨0xF00F#16, 0x8000#16⟩
  | .orReg _ _ => ⟨0xF00F#16, 0x8001#16⟩
  | .andReg _ _ => ⟨0xF00F#16, 0x8002#16⟩
  | .xorReg _ _ => ⟨0xF00F#16, 0x8003#16⟩
  | .addReg _ _ => ⟨0xF00F#16, 0x8004#16⟩
  | .subReg _ _ => ⟨0xF00F#16, 0x8005#16⟩
  | .shr _ _ => ⟨0xF00F#16, 0x8006#16⟩
  | .subn _ _ => ⟨0xF00F#16, 0x8007#16⟩
  | .shl _ _ => ⟨0xF00F#16, 0x800E#16⟩
  | .sneReg _ _ => ⟨0xF00F#16, 0x9000#16⟩
  | .ldI _ => ⟨0xF000#16, 0xA000#16⟩
  | .jpV0 _ => ⟨0xF000#16, 0xB000#16⟩
  | .rnd _ _ => ⟨0xF000#16, 0xC000#16⟩
  | .drw _ _ _ => ⟨0xF000#16, 0xD000#16⟩
  | .skp _ => ⟨0xF0FF#16, 0xE09E#16⟩
  | .sknp _ => ⟨0xF0FF#16, 0xE0A1#16⟩
  | .fxxx _ => ⟨0xF000#16, 0xF000#16⟩

/-- The opcode table, in the order of R64. -/
def opRows : List OpRow :=
  [⟨0xFFFF#16, 0x00E0#16⟩, -- 00E0
   ⟨0xFFFF#16, 0x00EE#16⟩, -- 00EE
   ⟨0xFFFF#16, 0x0FFF#16⟩, -- 0FFF
   ⟨0xF000#16, 0x1000#16⟩, -- 1nnn
   ⟨0xF000#16, 0x2000#16⟩, -- 2nnn
   ⟨0xF000#16, 0x3000#16⟩, -- 3xkk
   ⟨0xF000#16, 0x4000#16⟩, -- 4xkk
   ⟨0xF00F#16, 0x5000#16⟩, -- 5xy0
   ⟨0xF000#16, 0x6000#16⟩] -- 6xkk
  ++
  [⟨0xF000#16, 0x7000#16⟩, -- 7xkk
   ⟨0xF00F#16, 0x8000#16⟩, -- 8xy0
   ⟨0xF00F#16, 0x8001#16⟩, -- 8xy1
   ⟨0xF00F#16, 0x8002#16⟩, -- 8xy2
   ⟨0xF00F#16, 0x8003#16⟩, -- 8xy3
   ⟨0xF00F#16, 0x8004#16⟩, -- 8xy4
   ⟨0xF00F#16, 0x8005#16⟩, -- 8xy5
   ⟨0xF00F#16, 0x8006#16⟩, -- 8xy6
   ⟨0xF00F#16, 0x8007#16⟩] -- 8xy7
  ++
  [⟨0xF00F#16, 0x800E#16⟩, -- 8xyE
   ⟨0xF00F#16, 0x9000#16⟩, -- 9xy0
   ⟨0xF000#16, 0xA000#16⟩, -- Annn
   ⟨0xF000#16, 0xB000#16⟩, -- Bnnn
   ⟨0xF000#16, 0xC000#16⟩, -- Cxkk
   ⟨0xF000#16, 0xD000#16⟩, -- Dxyn
   ⟨0xF0FF#16, 0xE09E#16⟩, -- Ex9E
   ⟨0xF0FF#16, 0xE0A1#16⟩, -- ExA1
   ⟨0xF000#16, 0xF000#16⟩] -- Fxxx

/-- A word is well formed when some row accepts it; every other word is an unknown opcode (R64, R70). -/
def wordWellFormed (w : Word) : Bool := opRows.any (·.accepts w)

/-- An instruction is well formed when its row stands in the table.
Every operand's range is its type (R61: 4, 8 or 12 bits), so no term of `Instr` holds an operand out of range. -/
def Instr.wellFormed (i : Instr) : Bool := opRows.contains i.row

/-- The loader accepts an image that fits between `0x200` and the end of memory (R182, D20). -/
def imageWellFormed (image : List Byte) : Bool := image.length ≤ Config.imageMax

end Sys2Proof
end

