-- ==== Sys2Proof/Decode.lean ====
section
/-! DEFINITION. The decoder, total on any bytes and rejecting by name, and after it the encoder
(spec/30_encoding.md R60 to R70, spec/40_execution_cycle.md R83, R84). -/

namespace Sys2Proof

/-! ### The fields of a word (R61) -/

/-- `op`, bits 15..12 (R61). -/
def opField (w : Word) : Nibble := w.extractLsb' 12 4

/-- `x`, bits 11..8 (R61). -/
def xField (w : Word) : RegIdx := w.extractLsb' 8 4

/-- `y`, bits 7..4 (R61). -/
def yField (w : Word) : RegIdx := w.extractLsb' 4 4

/-- `n`, bits 3..0 (R61). -/
def nField (w : Word) : Nibble := w.extractLsb' 0 4

/-- `kk`, bits 7..0 (R61). -/
def kkField (w : Word) : Byte := w.extractLsb' 0 8

/-- `nnn`, bits 11..0 (R61). -/
def nnnField (w : Word) : Addr := w.extractLsb' 0 12

/-- The word of two bytes, the one at the lower address high (R44). -/
def wordOfBytes (hi lo : Byte) : Word := hi ++ lo

/-- The high byte of a word, which lies at the lower address (R44). -/
def hiByte (w : Word) : Byte := w.extractLsb' 8 8

/-- The low byte of a word, which lies at the higher address (R44). -/
def loByte (w : Word) : Byte := w.extractLsb' 0 8

/-! ### The decoder -/

/-- Why bytes are no instruction. -/
inductive DecodeError where
  /-- Fewer than two bytes are left: every instruction is two bytes long (R60). -/
  | truncated
  /-- No row of the opcode table accepts the word (R70); executing it raises UnknownOpcode (R156). -/
  | unknownOpcode (w : Word)
  deriving DecidableEq, Repr

/-- The sub-decode of `op = 0`, by the whole word (R65). -/
def decodeOp0 (w : Word) : Except DecodeError Instr :=
  if w = 0x00E0#16 then .ok .cls
  else if w = 0x00EE#16 then .ok .ret
  else if w = 0x0FFF#16 then .ok .dump
  else .error (.unknownOpcode w)

/-- The sub-decode of `op = 8`, by `n` (R66). -/
def decodeOp8 (w : Word) : Except DecodeError Instr :=
  if nField w = 0x0#4 then .ok (.ldReg (xField w) (yField w))
  else if nField w = 0x1#4 then .ok (.orReg (xField w) (yField w))
  else if nField w = 0x2#4 then .ok (.andReg (xField w) (yField w))
  else if nField w = 0x3#4 then .ok (.xorReg (xField w) (yField w))
  else if nField w = 0x4#4 then .ok (.addReg (xField w) (yField w))
  else if nField w = 0x5#4 then .ok (.subReg (xField w) (yField w))
  else if nField w = 0x6#4 then .ok (.shr (xField w) (yField w))
  else if nField w = 0x7#4 then .ok (.subn (xField w) (yField w))
  else if nField w = 0xE#4 then .ok (.shl (xField w) (yField w))
  else .error (.unknownOpcode w)

/-- `op = 5` is defined for `n = 0` alone (R67). -/
def decodeOp5 (w : Word) : Except DecodeError Instr :=
  if nField w = 0x0#4 then .ok (.seReg (xField w) (yField w)) else .error (.unknownOpcode w)

/-- `op = 9` is defined for `n = 0` alone (R67). -/
def decodeOp9 (w : Word) : Except DecodeError Instr :=
  if nField w = 0x0#4 then .ok (.sneReg (xField w) (yField w)) else .error (.unknownOpcode w)

/-- The sub-decode of `op = 0xE`, by `kk` (R68). -/
def decodeOpE (w : Word) : Except DecodeError Instr :=
  if kkField w = 0x9E#8 then .ok (.skp (xField w))
  else if kkField w = 0xA1#8 then .ok (.sknp (xField w))
  else .error (.unknownOpcode w)

/-- The instruction a word selects, by the table of R84: first on `op`, then within it. -/
def decodeWord (w : Word) : Except DecodeError Instr :=
  if opField w = 0x0#4 then decodeOp0 w
  else if opField w = 0x1#4 then .ok (.jp (nnnField w))
  else if opField w = 0x2#4 then .ok (.call (nnnField w))
  else if opField w = 0x3#4 then .ok (.seImm (xField w) (kkField w))
  else if opField w = 0x4#4 then .ok (.sneImm (xField w) (kkField w))
  else if opField w = 0x5#4 then decodeOp5 w
  else if opField w = 0x6#4 then .ok (.ldImm (xField w) (kkField w))
  else if opField w = 0x7#4 then .ok (.addImm (xField w) (kkField w))
  else if opField w = 0x8#4 then decodeOp8 w
  else if opField w = 0x9#4 then decodeOp9 w
  else if opField w = 0xA#4 then .ok (.ldI (nnnField w))
  else if opField w = 0xB#4 then .ok (.jpV0 (nnnField w))
  else if opField w = 0xC#4 then .ok (.rnd (xField w) (kkField w))
  else if opField w = 0xD#4 then .ok (.drw (xField w) (yField w) (nField w))
  else if opField w = 0xE#4 then decodeOpE w
  else .ok (.fxxx (nnnField w))

/-- Decode the first instruction of a list of bytes, lowest address first, and give the bytes after it (R44, R60). -/
def decode : List Byte → Except DecodeError (Instr × List Byte)
  | hi :: lo :: rest => (decodeWord (wordOfBytes hi lo)).map (·, rest)
  | [] | [_] => .error .truncated

/-! ### The encoder -/

/-- The word of an instruction, from the patterns of R64 and the field places of R61. -/
def encode : Instr → Word
  | .cls => 0x00E0#16
  | .ret => 0x00EE#16
  | .dump => 0x0FFF#16
  | .jp nnn => 0x1#4 ++ nnn
  | .call nnn => 0x2#4 ++ nnn
  | .seImm x kk => 0x3#4 ++ x ++ kk
  | .sneImm x kk => 0x4#4 ++ x ++ kk
  | .seReg x y => 0x5#4 ++ x ++ y ++ 0x0#4
  | .ldImm x kk => 0x6#4 ++ x ++ kk
  | .addImm x kk => 0x7#4 ++ x ++ kk
  | .ldReg x y => 0x8#4 ++ x ++ y ++ 0x0#4
  | .orReg x y => 0x8#4 ++ x ++ y ++ 0x1#4
  | .andReg x y => 0x8#4 ++ x ++ y ++ 0x2#4
  | .xorReg x y => 0x8#4 ++ x ++ y ++ 0x3#4
  | .addReg x y => 0x8#4 ++ x ++ y ++ 0x4#4
  | .subReg x y => 0x8#4 ++ x ++ y ++ 0x5#4
  | .shr x y => 0x8#4 ++ x ++ y ++ 0x6#4
  | .subn x y => 0x8#4 ++ x ++ y ++ 0x7#4
  | .shl x y => 0x8#4 ++ x ++ y ++ 0xE#4
  | .sneReg x y => 0x9#4 ++ x ++ y ++ 0x0#4
  | .ldI nnn => 0xA#4 ++ nnn
  | .jpV0 nnn => 0xB#4 ++ nnn
  | .rnd x kk => 0xC#4 ++ x ++ kk
  | .drw x y n => 0xD#4 ++ x ++ y ++ n
  | .skp x => 0xE#4 ++ x ++ 0x9E#8
  | .sknp x => 0xE#4 ++ x ++ 0xA1#8
  | .fxxx nnn => 0xF#4 ++ nnn

/-- The bytes of an instruction as memory holds them, lowest address first (R44). -/
def encodeBytes (i : Instr) : List Byte := [hiByte (encode i), loByte (encode i)]

/-! ### The host's numbering of an instruction's bits -/

/-- The word whose low `nbits` bits are those of `w`, the bits above being zero. -/
def tableWord (nbits w : Nat) : Word := BitVec.ofNat 16 (w % 2 ^ nbits)

/-- The instruction the decoder reads from a word of the opcode table, its bytes laid out as the memory holds them. -/
def decodeTableWord (nbits w : Nat) : Option Instr :=
  match decode [hiByte (tableWord nbits w), loByte (tableWord nbits w)] with
  | .ok (i, _) => some i
  | .error _ => none

end Sys2Proof
end

