-- ==== Sys2Proof/Machine/State.lean ====
section
/-! DEFINITION. The state of the core (spec/10_state.md R37, R34), the reasons it can stop, and the state after reset
(spec/10_state.md R35). -/

namespace Sys2Proof.Machine

/-- The memory array (R40): the cells that do not read as `0x00`, addresses strictly rising.
A cell that is not listed reads as `0x00`, its reset value (R35, R47). -/
abbrev Memory := List Host.Cell

/-- `run_state` (R31). -/
inductive RunState where
  /-- Between reset and the host's start. -/
  | idle
  /-- Running; the one state in which the core makes steps (R80). -/
  | executing
  /-- The normal end of a run; terminal (R81). -/
  | halted
  /-- The abnormal end of a run; terminal (R159). -/
  | faulted
  deriving DecidableEq, Repr

/-- The fault kinds of R150, with what `fault_info` records of each.
An operation of the core that fails answers one, and `raiseFault` latches it in the state (R159), so that the step which
raises it still answers a next state, the FAULTED one (assumption 1).
Only `imageLoadFailure` is ever an outcome by itself. -/
inductive Fault where
  /-- R151: raised by MemRead and MemWrite at an address of 4096 or more; in a run, by the fetch at `pc = 4095`.
  Safe: it is the spec's own fault, latched as the spec says. -/
  | outOfRangeMemory (addr : Word)
  /-- R152: raised by the guarded register accessors for an index of 16 or more; by no instruction (R21).
  Safe: it is the spec's own fault. -/
  | outOfRangeRegister (idx : Word)
  /-- R153: raised by Push, that is by CALL, when `sp = 16`. Safe: it is the spec's own fault. -/
  | stackOverflow
  /-- R154: raised by Pop, that is by RET, when `sp = 0`. Safe: it is the spec's own fault. -/
  | stackUnderflow
  /-- R155: raised by CLS, DRW, SKP, SKNP and FXXX. Safe: it is the spec's own fault. -/
  | unimplementedOpcode (w : Word)
  /-- R156: raised at dispatch by a word that no row of the opcode table accepts. Safe: it is the spec's own fault. -/
  | unknownOpcode (w : Word)
  /-- R157: answered by the host's loader for an image that does not fit; the core never latches it.
  Safe: the core is not started (assumption 12). -/
  | imageLoadFailure
  deriving DecidableEq, Repr

/-- What the model gives no meaning to. -/
inductive Refusal where
  /-- An instruction of the opcode table whose meaning is not written yet; no arm of exec answers it in this model.
  Safe: the machine stops. -/
  | notModelled (mnemonic : String)
  deriving DecidableEq, Repr

/-- The whole state of the core (R37), its dump output (R34), the parameter of the spec (R4) and one field of the model's
own, `draws`. -/
structure State where
  /-- `mem[0..4095]`, as the cells that do not hold `0x00` (R40). -/
  mem : Memory
  /-- `V[0]` to `V[15]` (R20). -/
  v : Vector Byte 16
  /-- `stack[0]` to `stack[15]` (R26). -/
  stack : Vector Word 16
  /-- `sp`, the number of entries in use, 0 to 16 (R27, D13). -/
  sp : Fin 17
  /-- `pc` (R23). -/
  pc : Word
  /-- `I` (R25). -/
  index : Word
  /-- `CF` (R30). -/
  cf : Bool
  /-- `run_state` (R31). -/
  runState : RunState
  /-- `fault_kind` (R32). -/
  faultKind : BitVec 3
  /-- `fault_info` (R32). -/
  faultInfo : Word
  /-- `dump_req` (R34): whether the last step executed `0FFF`. -/
  dumpReq : Bool
  /-- `VF_MIRROR` (R4, R129): a parameter of the machine, which nothing changes (assumption 5). -/
  vfMirror : Bool
  /-- The MODEL's own: how many random bytes have been drawn, the argument of `Config.rnd` (R33, assumption 4). -/
  draws : Nat
  deriving DecidableEq, Repr

/-- The state after reset (R35): all zero and IDLE; `vfMirror` at the spec's default (R4). -/
def State.reset : State where
  mem := []
  v := Vector.replicate 16 0x00#8
  stack := Vector.replicate 16 0x0000#16
  sp := 0
  pc := 0x0000#16
  index := 0x0000#16
  cf := false
  runState := .idle
  faultKind := 0#3
  faultInfo := 0x0000#16
  dumpReq := false
  vfMirror := Config.vfMirrorDefault
  draws := 0

end Sys2Proof.Machine
end

