-- ==== Sys2Proof/Machine/Memory.lean ====
section
/-! DEFINITION. The memory array as a canonical list of cells (spec/20_memory.md R40, R47). -/

namespace Sys2Proof.Machine

/-- The canonical form from address `lo` on: addresses strictly rising and inside memory, and no cell that reads as an
unlisted one. -/
def Memory.wfFrom : Nat → Memory → Bool
  | _, [] => true
  | lo, (a, b) :: m => decide (lo ≤ a) && decide (a < Config.memSize) && decide (b ≠ 0x00#8) && Memory.wfFrom (a + 1) m

/-- The canonical form of the memory array: equal memories are equal lists. -/
def Memory.wf (m : Memory) : Bool := Memory.wfFrom 0 m

/-- `mem[a]`; a cell that is not listed holds its reset value `0x00` (R35, R40). -/
def Memory.read : Memory → Nat → Byte
  | [], _ => 0x00#8
  | (a', b') :: m, a => if a = a' then b' else Memory.read m a

/-- A cell in front of a list, unless it reads as an unlisted one. -/
def Memory.cons (a : Nat) (b : Byte) (m : Memory) : Memory := if b = 0x00#8 then m else (a, b) :: m

/-- `mem[a] <- b` (R42), keeping the canonical form. -/
def Memory.write : Memory → Nat → Byte → Memory
  | [], a, b => Memory.cons a b []
  | (a', b') :: m, a, b =>
    if a < a' then Memory.cons a b ((a', b') :: m)
    else if a = a' then Memory.cons a b m
    else (a', b') :: Memory.write m a b

end Sys2Proof.Machine
end

