-- ==== Sys2Proof/Machine/Ops.lean ====
section
/-! DEFINITION. The named operations of spec/00_scope.md R6 over registers, memory, stack and pc, and the one way a fault
is taken (spec/60_exceptions.md R159). There is no return from a fault (R161), so no operation leaves FAULTED but the
host's reset. -/

namespace Sys2Proof.Machine

/-! ### Faults -/

/-- `code(F)`: the numeric code latched in `fault_kind` (R150). -/
def faultCode : Fault → BitVec 3
  | .outOfRangeMemory _ => 1#3
  | .outOfRangeRegister _ => 2#3
  | .stackOverflow => 3#3
  | .stackUnderflow => 4#3
  | .unimplementedOpcode _ => 5#3
  | .unknownOpcode _ => 6#3
  | .imageLoadFailure => 7#3

/-- What `fault_info` records of a fault (R150). -/
def faultRecord : Fault → Word
  | .outOfRangeMemory addr => addr
  | .outOfRangeRegister idx => idx
  | .stackOverflow => 0x0000#16
  | .stackUnderflow => 0x0000#16
  | .unimplementedOpcode w => w
  | .unknownOpcode w => w
  | .imageLoadFailure => 0x0000#16

/-- `raise F(info)` (R159): the terminal state FAULTED with the kind and the info latched, and nothing else changed (R160). -/
def raiseFault (f : Fault) (s : State) : State :=
  { s with runState := .faulted, faultKind := faultCode f, faultInfo := faultRecord f }

/-- End an instruction: with the state its operations answer, or in FAULTED from the state before any of them, since an
instruction that faults applies none of its own effects (R87, R160). -/
def completeOrRaise (s : State) : Except Fault State → Host.Outcome State Fault Refusal
  | .ok t => .next t
  | .error f => .next (raiseFault f s)

/-! ### General registers -/

/-- `V[x]` for a 4-bit field, which is always in range (R20, R21). -/
def State.getV (s : State) (x : RegIdx) : Byte := s.v[x.toNat]'x.isLt

/-- `V[x] <- b`, overwriting unconditionally (R20). -/
def State.setV (s : State) (x : RegIdx) (b : Byte) : State := { s with v := s.v.set x.toNat b x.isLt }

/-- The guarded accessor `read_register(index)` (R21). -/
def readRegister (idx : Word) (s : State) : Except Fault Byte :=
  if h : idx.toNat < 16 then .ok (s.v[idx.toNat]'h) else .error (.outOfRangeRegister idx)

/-- The guarded accessor `write_register(index, v)` (R21). -/
def writeRegister (idx : Word) (b : Byte) (s : State) : Except Fault State :=
  if h : idx.toNat < 16 then .ok { s with v := s.v.set idx.toNat b h } else .error (.outOfRangeRegister idx)

/-! ### Memory -/

/-- `MemRead(addr, 1)` (R41): the address is checked and never reduced. -/
def memRead (addr : Word) (s : State) : Except Fault Byte :=
  if Config.memSize ≤ addr.toNat then .error (.outOfRangeMemory addr) else .ok (s.mem.read addr.toNat)

/-- `MemWrite(addr, 1, b)` (R42); no instruction calls it. -/
def memWrite (addr : Word) (b : Byte) (s : State) : Except Fault State :=
  if Config.memSize ≤ addr.toNat then .error (.outOfRangeMemory addr)
  else .ok { s with mem := s.mem.write addr.toNat b }

/-! ### Program counter, index register, flag, outputs -/

/-- `pc <- t` (R23). -/
def State.setPc (s : State) (t : Word) : State := { s with pc := t }

/-- `I <- w` (R25). -/
def State.setIndex (s : State) (w : Word) : State := { s with index := w }

/-- `CF <- b` (R30). -/
def State.setCf (s : State) (b : Bool) : State := { s with cf := b }

/-- `pc + 2`, the size of every instruction, modulo `2^16` (R60, R82, D19). -/
def nextPc (pc : Word) : Word := pc + 2#16

/-- `Skip()` (R86). -/
def State.skip (s : State) : State := s.setPc (nextPc s.pc)

/-- `pc_fetch` during execute: the address of the instruction, `pc - 2` (R82, R85, R91). -/
def State.pcFetch (s : State) : Word := s.pc - 2#16

/-- `emit DumpRequest` (R140, R34): the output is asserted for this step. -/
def State.assertDump (s : State) : State := { s with dumpReq := true }

/-- The dump output at the beginning of a step: asserted by no earlier instruction (R34). -/
def State.clearDump (s : State) : State := { s with dumpReq := false }

/-- `run_state <- HALTED`, the normal end of a run (R81). -/
def State.halt (s : State) : State := { s with runState := .halted }

/-! ### The random input -/

/-- The random byte `rnd` of this draw: a free value (R33, R113). -/
def State.rndByte (s : State) : Byte := Config.rnd s.draws

/-- The next draw is another free value, unrelated to this one (R33). -/
def State.nextDraw (s : State) : State := { s with draws := s.draws + 1 }

/-! ### The call stack -/

/-- `Push(w)` (R28): write at the stack pointer, then increment; a failing push writes nothing. -/
def push (w : Word) (s : State) : Except Fault State :=
  if h : s.sp.val < 16 then
    .ok { s with stack := s.stack.set s.sp.val w h, sp := ⟨s.sp.val + 1, Nat.succ_lt_succ h⟩ }
  else .error .stackOverflow

/-- `Pop()` (R29): decrement, then read; the entry keeps its value (R26), and a failing pop changes nothing. -/
def pop (s : State) : Except Fault (Word × State) :=
  if 0 < s.sp.val then
    .ok (s.stack[s.sp.val - 1]'(Nat.lt_of_le_of_lt (Nat.sub_le_sub_right (Nat.le_of_lt_succ s.sp.isLt) 1) (by decide)),
      { s with sp := ⟨s.sp.val - 1, Nat.lt_of_le_of_lt (Nat.sub_le _ _) s.sp.isLt⟩ })
  else .error .stackUnderflow

/-! ### Fetch -/

/-- The instruction word at `pc`, big-endian, the byte at the lower address read first (R44, R46). -/
def fetchWord (s : State) : Except Fault Word :=
  match memRead s.pc s with
  | .error f => .error f
  | .ok hi =>
    match memRead (s.pc + 1#16) s with
    | .error f => .error f
    | .ok lo => .ok (wordOfBytes hi lo)

end Sys2Proof.Machine
end

