-- ==== Sys2Proof/Machine/Operands.lean ====
section
/-! DEFINITION. The operand forms (spec/30_encoding.md R61, R63): every immediate is unsigned and used as it stands. -/

namespace Sys2Proof.Machine

/-- `zext_16(nnn)`: a 12-bit immediate where it is written to `pc` or `I` (R63). -/
def addrOperand (nnn : Addr) : Word := nnn.setWidth 16

/-- `zext_16(b)`: a byte widened to 16 bits (R5, R93). -/
def zextByte (b : Byte) : Word := b.setWidth 16

/-- `nnn + V[0]`: the computed jump target, formed at 16 bits (R93). -/
def indexedTarget (nnn : Addr) (s : State) : Word := addrOperand nnn + zextByte (s.getV 0#4)

end Sys2Proof.Machine
end

