-- ==== Sys2Proof/Machine/Flags.lean ====
section
/-! DEFINITION. The results and flags of the arithmetic instructions (spec/44_alu_register.md R124 to R130) and the flag
write `SetFlag` (R129). -/

namespace Sys2Proof.Machine

/-- A flag as a byte, `zext_8(b)` (R129). -/
def flagByte (b : Bool) : Byte := if b then 0x01#8 else 0x00#8

/-- `SetFlag(b)` (R129): `CF <- b`, and `V[15]` too under `VF_MIRROR`. -/
def setFlag (b : Bool) (s : State) : State :=
  if s.vfMirror then (s.setCf b).setV 15#4 (flagByte b) else s.setCf b

/-- Write a result to `V[x]` and then the flag, in that order (R129, D2). -/
def writeResultAndFlag (x : RegIdx) (result : Byte) (flag : Bool) (s : State) : State := setFlag flag (s.setV x result)

/-- `zext_9(a) + zext_9(b)` (R124). -/
def sum9 (a b : Byte) : BitVec 9 := a.setWidth 9 + b.setWidth 9

/-- `s[7:0]` of the 9-bit sum (R124). -/
def addResult (a b : Byte) : Byte := (sum9 a b).setWidth 8

/-- `s[8]` of the 9-bit sum: the carry out (R124). -/
def addFlag (a b : Byte) : Bool := (sum9 a b).getLsbD 8

/-- `(a - b)[7:0]` (R125, R127). -/
def subResult (a b : Byte) : Byte := a - b

/-- 1 when `a > b`, strictly and unsigned; 0 at equality (R125, R127, C2). -/
def subFlag (a b : Byte) : Bool := decide (b.toNat < a.toNat)

/-- `a >> 1`, logical (R126). -/
def shrResult (a : Byte) : Byte := a >>> 1

/-- `a[0]` (R126). -/
def shrFlag (a : Byte) : Bool := a.getLsbD 0

/-- `(a << 1)[7:0]` (R128). -/
def shlResult (a : Byte) : Byte := a <<< 1

/-- `a[7]` (R128). -/
def shlFlag (a : Byte) : Bool := a.getLsbD 7

end Sys2Proof.Machine
end

