-- ==== Sys2Proof/Machine/AluRegister.lean ====
section
/-! DEFINITION. The register-to-register instructions, `op = 8` (spec/44_alu_register.md).
Operands are read before anything is written (R38). -/

namespace Sys2Proof.Machine

/-- `LD Vx, Vy` (R120). -/
def execLdReg (x y : RegIdx) (s : State) : Host.Outcome State Fault Refusal := .next (s.setV x (s.getV y))

/-- `OR Vx, Vy` (R121): no flag. -/
def execOrReg (x y : RegIdx) (s : State) : Host.Outcome State Fault Refusal := .next (s.setV x (s.getV x ||| s.getV y))

/-- `AND Vx, Vy` (R122): no flag. -/
def execAndReg (x y : RegIdx) (s : State) : Host.Outcome State Fault Refusal := .next (s.setV x (s.getV x &&& s.getV y))

/-- `XOR Vx, Vy` (R123): no flag. -/
def execXorReg (x y : RegIdx) (s : State) : Host.Outcome State Fault Refusal := .next (s.setV x (s.getV x ^^^ s.getV y))

/-- `ADD Vx, Vy` (R124): the carry out is the flag. -/
def execAddReg (x y : RegIdx) (s : State) : Host.Outcome State Fault Refusal :=
  .next (writeResultAndFlag x (addResult (s.getV x) (s.getV y)) (addFlag (s.getV x) (s.getV y)) s)

/-- `SUB Vx, Vy` (R125): the flag is `V[x] > V[y]`, strictly. -/
def execSubReg (x y : RegIdx) (s : State) : Host.Outcome State Fault Refusal :=
  .next (writeResultAndFlag x (subResult (s.getV x) (s.getV y)) (subFlag (s.getV x) (s.getV y)) s)

/-- `SHR Vx` (R126): `V[y]` is not read. -/
def execShr (x _y : RegIdx) (s : State) : Host.Outcome State Fault Refusal :=
  .next (writeResultAndFlag x (shrResult (s.getV x)) (shrFlag (s.getV x)) s)

/-- `SUBN Vx, Vy` (R127): `V[y] - V[x]`, and the flag is `V[y] > V[x]`, strictly. -/
def execSubn (x y : RegIdx) (s : State) : Host.Outcome State Fault Refusal :=
  .next (writeResultAndFlag x (subResult (s.getV y) (s.getV x)) (subFlag (s.getV y) (s.getV x)) s)

/-- `SHL Vx` (R128): `V[y]` is not read. -/
def execShl (x _y : RegIdx) (s : State) : Host.Outcome State Fault Refusal :=
  .next (writeResultAndFlag x (shlResult (s.getV x)) (shlFlag (s.getV x)) s)

end Sys2Proof.Machine
end

