-- ==== Sys2Proof/Machine/ConditionalSkip.lean ====
section
/-! DEFINITION. The conditional skips SE and SNE (spec/42_conditional_skip.md). -/

namespace Sys2Proof.Machine

/-- `if c then Skip()` (R86). -/
def skipIf (c : Bool) (s : State) : State := if c then s.skip else s

/-- `SE Vx, kk` (R100). -/
def execSeImm (x : RegIdx) (kk : Byte) (s : State) : Host.Outcome State Fault Refusal := .next (skipIf (s.getV x == kk) s)

/-- `SNE Vx, kk` (R101). -/
def execSneImm (x : RegIdx) (kk : Byte) (s : State) : Host.Outcome State Fault Refusal := .next (skipIf (s.getV x != kk) s)

/-- `SE Vx, Vy` (R102). -/
def execSeReg (x y : RegIdx) (s : State) : Host.Outcome State Fault Refusal := .next (skipIf (s.getV x == s.getV y) s)

/-- `SNE Vx, Vy` (R103). -/
def execSneReg (x y : RegIdx) (s : State) : Host.Outcome State Fault Refusal := .next (skipIf (s.getV x != s.getV y) s)

end Sys2Proof.Machine
end

