-- ==== Sys2Proof/Machine/ControlTransfer.lean ====
section
/-! DEFINITION. Control transfer: RET, JP, CALL, JP V0 (spec/41_control_transfer.md).
Every meaning starts from a state whose `pc` is already `pc_fetch + 2` (R85). -/

namespace Sys2Proof.Machine

/-- `RET` (R90): `pc <- Pop()`, or StackUnderflow. -/
def execRet (s : State) : Host.Outcome State Fault Refusal :=
  completeOrRaise s ((pop s).map fun r => r.2.setPc r.1)

/-- `JP nnn` (R91): a jump to its own address sets `pc` to the memory size, which ends the run normally. -/
def execJp (nnn : Addr) (s : State) : Host.Outcome State Fault Refusal :=
  .next (s.setPc (if addrOperand nnn = s.pcFetch then BitVec.ofNat 16 Config.memSize else addrOperand nnn))

/-- `CALL nnn` (R92): `Push(pc); pc <- nnn`, or StackOverflow with no jump. -/
def execCall (nnn : Addr) (s : State) : Host.Outcome State Fault Refusal :=
  completeOrRaise s ((push s.pc s).map fun t => t.setPc (addrOperand nnn))

/-- `JP V0, nnn` (R93): no wrap and no self-jump check. -/
def execJpV0 (nnn : Addr) (s : State) : Host.Outcome State Fault Refusal := .next (s.setPc (indexedTarget nnn s))

end Sys2Proof.Machine
end

