-- ==== Sys2Proof/Machine/Debug.lean ====
section
/-! DEFINITION. The debug dump and the defined-but-unimplemented patterns (spec/45_debug_and_unimplemented.md).
Each of the latter takes the fault the spec describes: a next state in FAULTED with the word latched (R147, R159). -/

namespace Sys2Proof.Machine

/-- `DUMP` (R140): the request and nothing else. -/
def execDump (s : State) : Host.Outcome State Fault Refusal := .next s.assertDump

/-- `raise UnimplementedOpcode(opcode)` (R147, R155). -/
def raiseUnimplemented (i : Instr) (s : State) : State := raiseFault (.unimplementedOpcode (encode i)) s

/-- `CLS` (R141). -/
def execCls (s : State) : Host.Outcome State Fault Refusal := .next (raiseUnimplemented .cls s)

/-- `DRW Vx, Vy, n` (R142). -/
def execDrw (x y : RegIdx) (n : Nibble) (s : State) : Host.Outcome State Fault Refusal :=
  .next (raiseUnimplemented (.drw x y n) s)

/-- `SKP Vx` (R143). -/
def execSkp (x : RegIdx) (s : State) : Host.Outcome State Fault Refusal := .next (raiseUnimplemented (.skp x) s)

/-- `SKNP Vx` (R144). -/
def execSknp (x : RegIdx) (s : State) : Host.Outcome State Fault Refusal := .next (raiseUnimplemented (.sknp x) s)

/-- `FXXX` (R145). -/
def execFxxx (nnn : Addr) (s : State) : Host.Outcome State Fault Refusal := .next (raiseUnimplemented (.fxxx nnn) s)

end Sys2Proof.Machine
end

