-- ==== Sys2Proof/Machine/Immediate.lean ====
section
/-! DEFINITION. Immediate loads, add immediate, index load, random (spec/43_immediate_index_random.md). -/

namespace Sys2Proof.Machine

/-- `LD Vx, kk` (R110). -/
def execLdImm (x : RegIdx) (kk : Byte) (s : State) : Host.Outcome State Fault Refusal := .next (s.setV x kk)

/-- `ADD Vx, kk` (R111): modulo 256, no flag. -/
def execAddImm (x : RegIdx) (kk : Byte) (s : State) : Host.Outcome State Fault Refusal := .next (s.setV x (s.getV x + kk))

/-- `LD I, nnn` (R112). -/
def execLdI (nnn : Addr) (s : State) : Host.Outcome State Fault Refusal := .next (s.setIndex (addrOperand nnn))

/-- `RND Vx, kk` (R113): the random byte of this draw under the mask `kk`. -/
def execRnd (x : RegIdx) (kk : Byte) (s : State) : Host.Outcome State Fault Refusal :=
  .next ((s.setV x (s.rndByte &&& kk)).nextDraw)

end Sys2Proof.Machine
end

