-- ==== Sys2Proof/Machine/Cycle.lean ====
section
/-! DEFINITION. One pass of the run loop: check, fetch, decode, dispatch (spec/40_execution_cycle.md R80 to R84). -/

namespace Sys2Proof.Machine

/-- Dispatch a fetched word (R84): its instruction, or UnknownOpcode where no row accepts it (R70, R156). -/
def dispatchWord (w : Word) (s : State) : Host.Outcome State Fault Refusal :=
  match decodeWord w with
  | .ok i => exec i s
  | .error _ => .next (raiseFault (.unknownOpcode w) s)

/-- The pass of the run loop of an EXECUTING core (R80): the run-loop check (R81), the fetch and the advance of `pc`
(R82), and dispatch. A fetch that faults leaves `pc` as it was (R82, R160). -/
def runLoopPass (s : State) : Host.Outcome State Fault Refusal :=
  if Config.memSize ≤ s.pc.toNat then .next s.halt
  else
    match fetchWord s with
    | .error f => .next (raiseFault f s)
    | .ok w => dispatchWord w (s.setPc (nextPc s.pc))

/-- One step (R80). In IDLE, HALTED and FAULTED the core makes no step and nothing changes (assumption 2). -/
def cycle (s : State) : Host.Outcome State Fault Refusal :=
  match s.runState with
  | .executing => runLoopPass s.clearDump
  | .idle => .next s
  | .halted => .next s
  | .faulted => .next s

end Sys2Proof.Machine
end

