-- ==== Sys2Proof/Machine/HostPort.lean ====
section
/-! DEFINITION. What the host can do to the core (spec/10_state.md R34, spec/70_reset_and_hazards.md R180 to R184).
The host has no move during a run (R8, D16), so these are operations beside the step and not steps. -/

namespace Sys2Proof.Machine

/-- `rst` (R180): every piece of state at its reset value, from any state.
The parameter stays, and the draws go on, since the random input is no state and has no reset value (R35, assumption 7). -/
def resetCore (s : State) : State := { State.reset with vfMirror := s.vfMirror, draws := s.draws }

/-- The host's byte write through its 12-bit address port, honoured only in IDLE (R34, R42). -/
def hostWrite (addr : Addr) (b : Byte) (s : State) : State :=
  if s.runState = .idle then { s with mem := s.mem.write addr.toNat b } else s

/-- The host's write of `pc`, honoured only in IDLE (R34). -/
def hostSetPc (t : Word) (s : State) : State := if s.runState = .idle then s.setPc t else s

/-- `start` (R184): IDLE to EXECUTING; no effect in any other state. -/
def startCore (s : State) : State := if s.runState = .idle then { s with runState := .executing } else s

/-- The loader's byte writes from an address on (R182). -/
def hostWriteBytes : Addr → List Byte → State → State
  | _, [], s => s
  | addr, b :: bs, s => hostWriteBytes (addr + 1#12) bs (hostWrite addr b s)

/-- The load of a program image (R182): its bytes from `0x200` on and then `pc <- 0x0200`; an image that does not fit
is refused by the loader with ImageLoadFailure (R157, D20). -/
def loadImage (image : List Byte) (s : State) : Except Fault State :=
  if imageWellFormed image then
    .ok (hostSetPc (Config.loadAddr.setWidth 16) (hostWriteBytes Config.loadAddr image s))
  else .error .imageLoadFailure

/-- The 2-bit encoding of `run_state` (R31). -/
def runStateCode : RunState → BitVec 2
  | .idle => 0#2
  | .executing => 1#2
  | .halted => 2#2
  | .faulted => 3#2

/-- The outputs of the core (R34). -/
structure CoreOutputs where
  runState : BitVec 2
  faultKind : BitVec 3
  faultInfo : Word
  dumpReq : Bool
  deriving DecidableEq, Repr

/-- What the core's outputs show of a state (R34). -/
def coreOutputs (s : State) : CoreOutputs := ⟨runStateCode s.runState, s.faultKind, s.faultInfo, s.dumpReq⟩

/-- The debug view of one memory cell (R34, R168); reading it has no effect. -/
def debugMem (addr : Addr) (s : State) : Byte := s.mem.read addr.toNat

/-- A word of the host's placed at an address, high byte first (R44). -/
def placeWord (a : Nat) (w : Word) (s : State) : State :=
  { s with mem := (s.mem.write a (hiByte w)).write (a + 1) (loByte w) }

/-- Where the next step can fetch: at `pc`, or at the load address when no whole word lies at `pc`. -/
def fetchablePc (pc : Word) : Word := if pc.toNat + 1 < Config.memSize then pc else Config.loadAddr.setWidth 16

/-- The host's placing of one word where the next step fetches, and its start (R182, R184, assumption 3). -/
def placeAndStart (w : Word) (s : State) : State :=
  { placeWord (fetchablePc s.pc).toNat w s with pc := fetchablePc s.pc, runState := .executing }

end Sys2Proof.Machine
end

