-- ==== Sys2Proof/Machine/Step.lean ====
section
/-! DEFINITION. The step of the machine (spec/40_execution_cycle.md R80) and the host's way of placing one word. -/

namespace Sys2Proof.Machine

/-- One step: one pass of the run loop in EXECUTING (R80). -/
def step (s : State) : Host.Outcome State Fault Refusal := cycle s

/-- The state with one word of the opcode table placed where the next step fetches it, and the core started. -/
def State.withFetchWord (s : State) (nbits w : Nat) : State := placeAndStart (tableWord nbits w) s

end Sys2Proof.Machine
end

