-- ==== Sys2Proof/Safety.lean ====
section
/-! DEFINITION. What counts as a result and as a good state, and the frames, in the terms the claims use. -/

namespace Sys2Proof.Safety

open Sys2Proof.Machine

/-- The only normal end of a run (R9, R81): a state whose contents are a result of the program. -/
def IsResult (s : State) : Prop := s.runState = .halted

/-- The abnormal end of a run (R9, R160): nothing in it is a result of the program. -/
def IsFaulted (s : State) : Prop := s.runState = .faulted

/-- The pieces of state apart from the general registers and memory. -/
inductive Piece where
  | stack | sp | pc | index | cf | runState | faultKind | faultInfo | dumpReq | vfMirror | draws
  deriving DecidableEq, Repr

/-- Two states hold the same in a piece. -/
def Piece.same : Piece → State → State → Prop
  | .stack, s, t => t.stack = s.stack
  | .sp, s, t => t.sp = s.sp
  | .pc, s, t => t.pc = s.pc
  | .index, s, t => t.index = s.index
  | .cf, s, t => t.cf = s.cf
  | .runState, s, t => t.runState = s.runState
  | .faultKind, s, t => t.faultKind = s.faultKind
  | .faultInfo, s, t => t.faultInfo = s.faultInfo
  | .dumpReq, s, t => t.dumpReq = s.dumpReq
  | .vfMirror, s, t => t.vfMirror = s.vfMirror
  | .draws, s, t => t.draws = s.draws

/-- The frame: from `s` to `t` nothing changed but the named registers and pieces; every byte of memory reads as before. -/
def KeepsAllBut (regs : List RegIdx) (pieces : List Piece) (s t : State) : Prop :=
  (∀ r : RegIdx, r ∉ regs → t.getV r = s.getV r) ∧
  (∀ p : Piece, p ∉ pieces → p.same s t) ∧
  (∀ a : Nat, t.mem.read a = s.mem.read a)

/-- The registers a flag-writing instruction may change: its own, and VF under `VF_MIRROR` (R38). -/
def flagDests (x : RegIdx) (s : State) : List RegIdx := if s.vfMirror then [x, 15#4] else [x]

/-- What an instruction that writes `result` to `V[x]` and then `flag` leaves (R129): `CF` holds the flag; `V[x]` the
result, or under `VF_MIRROR` with `x = 15` the flag; VF the flag under `VF_MIRROR`. -/
def ResultThenFlag (x : RegIdx) (result : Byte) (flag : Bool) (s t : State) : Prop :=
  t.cf = flag ∧
  (¬ (s.vfMirror = true ∧ x = 15#4) → t.getV x = result) ∧
  (s.vfMirror = true → t.getV 15#4 = if flag then 0x01#8 else 0x00#8) ∧
  KeepsAllBut (flagDests x s) [.cf] s t

/-- The state a fault raised in `s` leaves (R159, R160): FAULTED with the kind and info latched, all else as in `s`. -/
def FaultedFrom (kind : BitVec 3) (info : Word) (s t : State) : Prop :=
  t.runState = .faulted ∧ t.faultKind = kind ∧ t.faultInfo = info ∧
  KeepsAllBut [] [.runState, .faultKind, .faultInfo] s t

/-- The registers an instruction may change in a state (R38): the one its `x` field names, and VF for the flag writers
under `VF_MIRROR`. -/
def MayWriteReg (i : Instr) (s : State) (r : RegIdx) : Prop :=
  i.destReg = some r ∨ (i.writesFlag = true ∧ s.vfMirror = true ∧ r = 15#4)

/-- Every piece of state the spec gives the core at its reset value (R35). -/
def ZeroedState (s : State) : Prop :=
  (∀ a : Nat, s.mem.read a = 0x00#8) ∧ (∀ r : RegIdx, s.getV r = 0x00#8) ∧
  (∀ (j : Nat) (h : j < 16), s.stack[j]'h = 0x0000#16) ∧ s.sp = 0 ∧ s.pc = 0x0000#16 ∧ s.index = 0x0000#16 ∧
  s.cf = false ∧ s.runState = .idle ∧ s.faultKind = 0#3 ∧ s.faultInfo = 0x0000#16

/-- The launch state of an image (R183): the image from `0x200` on and zero elsewhere, `pc` at `0x200`, EXECUTING, all
else zero. -/
def LaunchState (image : List Byte) (s : State) : Prop :=
  (∀ (k : Nat) (h : k < image.length), s.mem.read (0x200 + k) = image[k]'h) ∧
  (∀ a : Nat, a < 0x200 ∨ 0x200 + image.length ≤ a → s.mem.read a = 0x00#8) ∧
  (∀ r : RegIdx, s.getV r = 0x00#8) ∧ (∀ (j : Nat) (h : j < 16), s.stack[j]'h = 0x0000#16) ∧
  s.sp = 0 ∧ s.pc = 0x0200#16 ∧ s.index = 0x0000#16 ∧ s.cf = false ∧ s.runState = .executing ∧
  s.faultKind = 0#3 ∧ s.faultInfo = 0x0000#16

/-- `k` steps of the machine, stopping at an outcome that is no next state; the host's `Core.run` of this core. -/
def run : Nat → State → Host.Outcome State Fault Refusal
  | 0, s => .next s
  | k + 1, s =>
    match step s with
    | .next t => run k t
    | .fault f => .fault f
    | .refused r => .refused r

/-- The next step of the core is the normal halt (R81). -/
def HaltsNext (s : State) : Prop := ∃ t, step s = .next t ∧ t.runState = .halted ∧ t.pc = s.pc

/-- The invariant of the core's own records: memory in canonical form, `I` at most 4095 (R25), the fault registers zero
unless FAULTED (R32) and a code the core can latch when FAULTED (R150), HALTED only past the end of memory (R81), and
the dump output asserted only after a step of an EXECUTING core (R34). -/
def GoodState (s : State) : Prop :=
  s.mem.wf = true ∧ s.index.toNat < Config.memSize ∧
  (s.runState ≠ .faulted → s.faultKind = 0#3 ∧ s.faultInfo = 0x0000#16) ∧
  (s.runState = .faulted → s.faultKind = 1#3 ∨ s.faultKind = 3#3 ∨ s.faultKind = 4#3 ∨ s.faultKind = 5#3 ∨ s.faultKind = 6#3) ∧
  (s.runState = .halted → Config.memSize ≤ s.pc.toNat) ∧
  (s.runState ≠ .executing → s.dumpReq = false)

/-- The bound on the program counter (R24, R90): `pc` is at most `0x10FE` and every stacked address at most `0x1000`. -/
def PcBounded (s : State) : Prop :=
  s.pc.toNat ≤ 0x10FE ∧ ∀ (j : Nat) (h : j < 16), (s.stack[j]'h).toNat ≤ 0x1000

/-- The latched fault tells the truth (R150 to R156): each code goes with the state and the info that raise it. -/
def FaultRecordTrue (s : State) : Prop :=
  s.runState = .faulted →
    (s.faultKind = 1#3 ∧ s.faultInfo = 0x1000#16 ∧ s.pc = 0x0FFF#16) ∨
    (s.faultKind = 3#3 ∧ s.faultInfo = 0x0000#16 ∧ s.sp = 16) ∨
    (s.faultKind = 4#3 ∧ s.faultInfo = 0x0000#16 ∧ s.sp = 0) ∨
    (s.faultKind = 5#3 ∧ ∃ i : Instr, decodeWord s.faultInfo = .ok i ∧ i.isUnimplemented = true) ∨
    (s.faultKind = 6#3 ∧ wordWellFormed s.faultInfo = false)

end Sys2Proof.Safety
end

