-- ==== Sys2Proof/Certificates/Slice0/Obligations.lean ====
section
/-! DEFINITION. The statements for the provers. In every one about `exec`, the state is that of the execute phase: its
`pc` is already `pc_fetch + 2` (spec/40_execution_cycle.md R85). -/

open Sys2Proof Sys2Proof.Machine Sys2Proof.Safety

/-! ### Encoding (spec/30_encoding.md) -/

/-- R61: the places of the fields, and `kk = y ++ n`, `nnn = x ++ y ++ n`, with the spec's worked example. -/
def Obligations.FieldsOfAWord : Prop :=
  (∀ w : Word,
    (∀ i, i < 4 → (opField w).getLsbD i = w.getLsbD (12 + i)) ∧ (∀ i, i < 4 → (xField w).getLsbD i = w.getLsbD (8 + i)) ∧
    (∀ i, i < 4 → (yField w).getLsbD i = w.getLsbD (4 + i)) ∧ (∀ i, i < 4 → (nField w).getLsbD i = w.getLsbD i) ∧
    (∀ i, i < 8 → (kkField w).getLsbD i = w.getLsbD i) ∧ (∀ i, i < 12 → (nnnField w).getLsbD i = w.getLsbD i) ∧
    kkField w = yField w ++ nField w ∧ nnnField w = xField w ++ yField w ++ nField w) ∧
  opField 0x8AB4#16 = 0x8#4 ∧ xField 0x8AB4#16 = 0xA#4 ∧ yField 0x8AB4#16 = 0xB#4 ∧ nField 0x8AB4#16 = 0x4#4 ∧
  kkField 0x8AB4#16 = 0xB4#8 ∧ nnnField 0x8AB4#16 = 0xAB4#12

/-- R64 and 95 S4: words of each family written out from the spec decode to the instructions they stand for. -/
def Obligations.ExampleWordsDecode : Prop :=
  decodeWord 0x00EE#16 = .ok .ret ∧ decodeWord 0x120C#16 = .ok (.jp 0x20C#12) ∧ decodeWord 0x3305#16 = .ok (.seImm 3#4 0x05#8) ∧
  decodeWord 0x9120#16 = .ok (.sneReg 1#4 2#4) ∧ decodeWord 0x71FF#16 = .ok (.addImm 1#4 0xFF#8) ∧
  decodeWord 0xA123#16 = .ok (.ldI 0x123#12) ∧ decodeWord 0x8AB4#16 = .ok (.addReg 0xA#4 0xB#4) ∧
  decodeWord 0x81F6#16 = .ok (.shr 1#4 0xF#4) ∧ decodeWord 0x0FFF#16 = .ok .dump ∧ decodeWord 0xD125#16 = .ok (.drw 1#4 2#4 5#4) ∧
  decodeWord 0xE3A1#16 = .ok (.sknp 3#4)

/-- Decoding the word of any instruction, or its bytes at the front of any others, gives the instruction back.
That fields the rules ignore are operands is the model's choice (assumption 8), and so is the decoder of byte lists
(assumption 17). -/
def Obligations.DecodeOfEncodeIsTheInstruction : Prop :=
  ∀ i : Instr, decodeWord (encode i) = .ok i ∧ ∀ rest : List Byte, decode (encodeBytes i ++ rest) = .ok (i, rest)

/-- A word that decodes is the encoding of what it decodes to: no bit of a word is dropped.
That two words differing only in a field the rules ignore (any `y` of SHR and SHL selects the same instruction, R62,
R72) decode to two terms of `Instr` is the model's choice (assumption 8): it keeps the ignored fields as operands. -/
def Obligations.EncodeOfDecodeIsTheWord : Prop := ∀ (w : Word) (i : Instr), decodeWord w = .ok i → encode i = w

/-- R64, R73: the decoder and the table of masks agree: a word decodes exactly when some row accepts it, and then to an
instruction of a row that accepts it. -/
def Obligations.DecoderAgreesWithOpcodeTable : Prop :=
  ∀ w : Word, ((∃ i, decodeWord w = .ok i) ↔ wordWellFormed w = true) ∧ (∀ i, decodeWord w = .ok i → i.row.accepts w = true)

/-- R64: there are 27 rows and no word matches two. -/
def Obligations.OpcodeRowsAreDisjoint : Prop :=
  opRows.length = 27 ∧
  ∀ (w : Word) (j k : Nat) (hj : j < opRows.length) (hk : k < opRows.length),
    (opRows[j]'hj).accepts w = true → (opRows[k]'hk).accepts w = true → j = k

/-- R65 to R68, R70: the unknown words are those of the five classes (a) to (e), and they are rejected by name. -/
def Obligations.UnknownWordsAreTheFiveClasses : Prop :=
  ∀ w : Word, decodeWord w = .error (.unknownOpcode w) ↔
    (opField w = 0x0#4 ∧ w ≠ 0x00E0#16 ∧ w ≠ 0x00EE#16 ∧ w ≠ 0x0FFF#16) ∨
    (opField w = 0x5#4 ∧ nField w ≠ 0x0#4) ∨
    (opField w = 0x8#4 ∧ nField w ∈ [0x8#4, 0x9#4, 0xA#4, 0xB#4, 0xC#4, 0xD#4, 0xF#4]) ∨
    (opField w = 0x9#4 ∧ nField w ≠ 0x0#4) ∨
    (opField w = 0xE#4 ∧ kkField w ≠ 0x9E#8 ∧ kkField w ≠ 0xA1#8)

/-! ### State, memory, stack, faults -/

/-- R35, R180: the state after reset, and the state a reset leaves from any state, hold zero everywhere and are IDLE. -/
def Obligations.ResetZeroesEveryPiece : Prop := ZeroedState State.reset ∧ ∀ s : State, ZeroedState (resetCore s)

/-- R20: a register reads as the last value written to it, and no write changes another register or anything else. -/
def Obligations.RegisterReadsLastWrite : Prop :=
  ∀ (s : State) (x : RegIdx) (b : Byte), (s.setV x b).getV x = b ∧ KeepsAllBut [x] [] s (s.setV x b)

/-- R21: the guarded accessors fail for every index of 16 or more, and work for every 4-bit field.
The accessors' index of 16 bits is the model's choice (assumption 11). -/
def Obligations.GuardedRegisterAccess : Prop :=
  ∀ (s : State) (b : Byte),
    (∀ idx : Word, 16 ≤ idx.toNat → readRegister idx s = .error (.outOfRangeRegister idx) ∧
      writeRegister idx b s = .error (.outOfRangeRegister idx)) ∧
    (∀ x : RegIdx, readRegister (x.setWidth 16) s = .ok (s.getV x) ∧ writeRegister (x.setWidth 16) b s = .ok (s.setV x b))

/-- R28: a push at `sp < 16` writes the entry at `sp` and increments `sp`; at 16 it raises StackOverflow. -/
def Obligations.PushWritesThenIncrements : Prop :=
  ∀ (w : Word) (s : State),
    (s.sp = 16 → push w s = .error .stackOverflow) ∧
    (∀ h : s.sp.val < 16, ∃ t, push w s = .ok t ∧ t.stack[s.sp.val]'h = w ∧
      (∀ (j : Nat) (hj : j < 16), j ≠ s.sp.val → t.stack[j]'hj = s.stack[j]'hj) ∧
      t.sp.val = s.sp.val + 1 ∧ KeepsAllBut [] [.stack, .sp] s t)

/-- R29: a pop decrements `sp` and reads there; at 0 it raises StackUnderflow; and the round trip of two pushes. -/
def Obligations.PopDecrementsThenReads : Prop :=
  ∀ s : State,
    (s.sp = 0 → pop s = .error .stackUnderflow) ∧
    (0 < s.sp.val → ∃ (w : Word) (t : State) (h : s.sp.val - 1 < 16), pop s = .ok (w, t) ∧
      w = s.stack[s.sp.val - 1]'h ∧ t.sp.val = s.sp.val - 1 ∧ KeepsAllBut [] [.sp] s t) ∧
    (s.sp.val < 15 → ∀ a b : Word, ∃ t₁ t₂ t₃ t₄, push a s = .ok t₁ ∧ push b t₁ = .ok t₂ ∧
      pop t₂ = .ok (b, t₃) ∧ pop t₃ = .ok (a, t₄) ∧ t₄.sp = s.sp)

/-- R41, R42, R151: a memory access outside `0..4095` raises OutOfRangeMemory with its address and never wraps; inside, a
read answers the cell, and a write stores its byte at its address and changes nothing else (said over memory in canonical
form, assumption 15, which the write keeps); the one fetch inside the run-loop guard that fails is at 4095, and the step then faults with info `0x1000`
and leaves `pc`, the dump output not asserted (the model's choice, assumption 6). -/
def Obligations.MemoryAccessIsBounded : Prop :=
  (∀ (addr : Word) (b : Byte) (s : State),
    (4096 ≤ addr.toNat → memRead addr s = .error (.outOfRangeMemory addr) ∧ memWrite addr b s = .error (.outOfRangeMemory addr)) ∧
    (addr.toNat < 4096 → memRead addr s = .ok (s.mem.read addr.toNat) ∧
      ∃ t, memWrite addr b s = .ok t ∧ t = { s with mem := t.mem } ∧
        (s.mem.wf = true → t.mem.wf = true ∧ ∀ a : Nat, t.mem.read a = if a = addr.toNat then b else s.mem.read a))) ∧
  (∀ s : State, s.pc.toNat < 4096 → ((∃ f, fetchWord s = .error f) ↔ s.pc = 0x0FFF#16)) ∧
  (∀ s : State, s.runState = .executing → s.pc = 0x0FFF#16 →
    ∃ t, step s = .next t ∧ FaultedFrom 1#3 0x1000#16 s.clearDump t)

/-- R44, R45, R46: a fetch at any `pc` below 4095, odd or even, answers the byte at `pc` high and the byte at `pc + 1` low. -/
def Obligations.FetchIsBigEndianAtAnyParity : Prop :=
  ∀ s : State, s.pc.toNat < 4095 → ∃ w, fetchWord s = .ok w ∧
    w.toNat = (s.mem.read s.pc.toNat).toNat * 256 + (s.mem.read (s.pc.toNat + 1)).toNat

/-- R150, R159: raising a fault latches its code and info in FAULTED and changes nothing else; the codes and infos.
The operation is defined on code 7 too, which the core never raises (R157). -/
def Obligations.RaiseLatchesCodeAndInfo : Prop :=
  (∀ (f : Fault) (s : State), FaultedFrom (faultCode f) (faultRecord f) s (raiseFault f s)) ∧
  (∀ w : Word, faultCode (.outOfRangeMemory w) = 1#3 ∧ faultRecord (.outOfRangeMemory w) = w ∧
    faultCode (.outOfRangeRegister w) = 2#3 ∧ faultRecord (.outOfRangeRegister w) = w ∧
    faultCode (.unimplementedOpcode w) = 5#3 ∧ faultRecord (.unimplementedOpcode w) = w ∧
    faultCode (.unknownOpcode w) = 6#3 ∧ faultRecord (.unknownOpcode w) = w) ∧
  faultCode .stackOverflow = 3#3 ∧ faultRecord .stackOverflow = 0x0000#16 ∧
  faultCode .stackUnderflow = 4#3 ∧ faultRecord .stackUnderflow = 0x0000#16 ∧ faultCode .imageLoadFailure = 7#3

/-! ### The execution cycle (spec/40_execution_cycle.md) -/

/-- R80, R82 to R85: when the two bytes at `pc` decode to an instruction, a step of an EXECUTING core is that instruction
executed from `pc + 2`, with the dump output of the step not asserted before it (assumption 6). -/
def Obligations.StepRunsTheDecodedInstruction : Prop :=
  ∀ (s : State) (i : Instr), s.runState = .executing → s.pc.toNat < 4095 →
    decodeWord (wordOfBytes (s.mem.read s.pc.toNat) (s.mem.read (s.pc.toNat + 1))) = .ok i →
    step s = exec i { s with pc := s.pc + 2#16, dumpReq := false }

/-- R81: at `pc >= 4096` a step of an EXECUTING core goes to HALTED and changes nothing else (the dump output, which is no
state of R37, is not asserted, the model's choice, assumption 6). -/
def Obligations.StepPastTheEndHalts : Prop :=
  ∀ s : State, s.runState = .executing → 4096 ≤ s.pc.toNat →
    ∃ t, step s = .next t ∧ t.runState = .halted ∧ t.dumpReq = false ∧ KeepsAllBut [] [.runState, .dumpReq] s t

/-- R156: a step over a word that no row of the table accepts faults with UnknownOpcode and the word, `pc` past it.
That the dump output is then not asserted is the model's choice (assumption 6). -/
def Obligations.StepOverAnUnknownWordFaults : Prop :=
  ∀ s : State, s.runState = .executing → s.pc.toNat < 4095 →
    wordWellFormed (wordOfBytes (s.mem.read s.pc.toNat) (s.mem.read (s.pc.toNat + 1))) = false →
    ∃ t, step s = .next t ∧
      FaultedFrom 6#3 (wordOfBytes (s.mem.read s.pc.toNat) (s.mem.read (s.pc.toNat + 1)))
        { s with pc := s.pc + 2#16, dumpReq := false } t

/-- R80, R161 and vector V-CYC-8: in IDLE, HALTED and FAULTED any number of steps changes nothing.
That the step answers the same state, where the spec says there is no step, is the model's choice (assumption 2). -/
def Obligations.OnlyAnExecutingCoreChanges : Prop :=
  ∀ s : State, s.runState ≠ .executing → ∀ k : Nat, run k s = .next s

/-- 93, end of part 1: no behaviour is stuck; from every state any number of steps answers a next state.
Two things in it are the model's choice: that a step which raises a fault answers the FAULTED state as a next state
(assumption 1), and that step answers the same state in IDLE, HALTED and FAULTED, where R80 says that the core has no
step (assumption 2). -/
def Obligations.EveryRunHasANextState : Prop :=
  ∀ (k : Nat) (s : State), ∃ t : State, run k s = .next t

/-- R31: the encoding of the run states and their transitions, and that there are no others.
That step answers a state in IDLE, HALTED and FAULTED at all is the model's choice (assumption 2), and so is that
reset and start are operations beside it (assumption 14). -/
def Obligations.RunStateTransitions : Prop :=
  (runStateCode .idle = 0#2 ∧ runStateCode .executing = 1#2 ∧ runStateCode .halted = 2#2 ∧ runStateCode .faulted = 3#2) ∧
  (∀ s t : State, step s = .next t →
    (s.runState ≠ .executing → t.runState = s.runState) ∧
    (s.runState = .executing → t.runState = .executing ∨ t.runState = .halted ∨ t.runState = .faulted) ∧
    (s.runState = .executing → (t.runState = .halted ↔ 4096 ≤ s.pc.toNat))) ∧
  (∀ s : State, (resetCore s).runState = .idle ∧
    (startCore s).runState = if s.runState = .idle then .executing else s.runState)

/-! ### Control transfer (spec/41_control_transfer.md) -/

/-- R90. -/
def Obligations.RetPopsTheProgramCounter : Prop :=
  decodeWord 0x00EE#16 = .ok .ret ∧
  ∀ s : State,
    (0 < s.sp.val → ∃ (t : State) (h : s.sp.val - 1 < 16), exec .ret s = .next t ∧
      t.pc = s.stack[s.sp.val - 1]'h ∧ t.sp.val = s.sp.val - 1 ∧ KeepsAllBut [] [.pc, .sp] s t ∧
      (s.runState = .executing → 4096 ≤ t.pc.toNat → HaltsNext t)) ∧
    (s.sp = 0 → ∃ t, exec .ret s = .next t ∧ FaultedFrom 4#3 0x0000#16 s t)

/-- R91. -/
def Obligations.JpJumpsOrHaltsOnItself : Prop :=
  ∀ nnn : Addr, decodeWord (0x1#4 ++ nnn) = .ok (.jp nnn) ∧
    ∀ s : State, ∃ t, exec (.jp nnn) s = .next t ∧ KeepsAllBut [] [.pc] s t ∧
      (nnn.setWidth 16 = s.pc - 2#16 → t.pc = 0x1000#16 ∧ (s.runState = .executing → HaltsNext t)) ∧
      (nnn.setWidth 16 ≠ s.pc - 2#16 → t.pc.toNat = nnn.toNat)

/-- R92. -/
def Obligations.CallPushesAndJumps : Prop :=
  ∀ nnn : Addr, decodeWord (0x2#4 ++ nnn) = .ok (.call nnn) ∧
    ∀ s : State,
      (∀ h : s.sp.val < 16, ∃ t, exec (.call nnn) s = .next t ∧ t.pc.toNat = nnn.toNat ∧ t.stack[s.sp.val]'h = s.pc ∧
        (∀ (j : Nat) (hj : j < 16), j ≠ s.sp.val → t.stack[j]'hj = s.stack[j]'hj) ∧
        t.sp.val = s.sp.val + 1 ∧ KeepsAllBut [] [.pc, .stack, .sp] s t) ∧
      (s.sp = 16 → ∃ t, exec (.call nnn) s = .next t ∧ FaultedFrom 3#3 0x0000#16 s t)

/-- R93. -/
def Obligations.JpV0AddsWithoutWrapping : Prop :=
  ∀ nnn : Addr, decodeWord (0xB#4 ++ nnn) = .ok (.jpV0 nnn) ∧
    ∀ s : State, ∃ t, exec (.jpV0 nnn) s = .next t ∧ t.pc.toNat = nnn.toNat + (s.getV 0#4).toNat ∧
      KeepsAllBut [] [.pc] s t ∧ (s.runState = .executing → 4096 ≤ nnn.toNat + (s.getV 0#4).toNat → HaltsNext t)

/-! ### Conditional skips (spec/42_conditional_skip.md) -/

/-- R100. -/
def Obligations.SeImmSkipsWhenEqual : Prop :=
  ∀ (x : RegIdx) (kk : Byte), decodeWord (0x3#4 ++ x ++ kk) = .ok (.seImm x kk) ∧
    ∀ s : State, ∃ t, exec (.seImm x kk) s = .next t ∧ KeepsAllBut [] [.pc] s t ∧
      t.pc = if s.getV x = kk then s.pc + 2#16 else s.pc

/-- R101. -/
def Obligations.SneImmSkipsWhenDifferent : Prop :=
  ∀ (x : RegIdx) (kk : Byte), decodeWord (0x4#4 ++ x ++ kk) = .ok (.sneImm x kk) ∧
    ∀ s : State, ∃ t, exec (.sneImm x kk) s = .next t ∧ KeepsAllBut [] [.pc] s t ∧
      t.pc = if s.getV x = kk then s.pc else s.pc + 2#16

/-- R102. -/
def Obligations.SeRegSkipsWhenEqual : Prop :=
  ∀ x y : RegIdx, decodeWord (0x5#4 ++ x ++ y ++ 0x0#4) = .ok (.seReg x y) ∧
    (∀ n : Nibble, n ≠ 0x0#4 → decodeWord (0x5#4 ++ x ++ y ++ n) = .error (.unknownOpcode (0x5#4 ++ x ++ y ++ n))) ∧
    ∀ s : State, ∃ t, exec (.seReg x y) s = .next t ∧ KeepsAllBut [] [.pc] s t ∧
      t.pc = if s.getV x = s.getV y then s.pc + 2#16 else s.pc

/-- R103. -/
def Obligations.SneRegSkipsWhenDifferent : Prop :=
  ∀ x y : RegIdx, decodeWord (0x9#4 ++ x ++ y ++ 0x0#4) = .ok (.sneReg x y) ∧
    (∀ n : Nibble, n ≠ 0x0#4 → decodeWord (0x9#4 ++ x ++ y ++ n) = .error (.unknownOpcode (0x9#4 ++ x ++ y ++ n))) ∧
    ∀ s : State, ∃ t, exec (.sneReg x y) s = .next t ∧ KeepsAllBut [] [.pc] s t ∧
      t.pc = if s.getV x = s.getV y then s.pc else s.pc + 2#16

/-! ### Immediate, index, random (spec/43_immediate_index_random.md) -/

/-- R110. -/
def Obligations.LdImmLoadsTheByte : Prop :=
  ∀ (x : RegIdx) (kk : Byte), decodeWord (0x6#4 ++ x ++ kk) = .ok (.ldImm x kk) ∧
    ∀ s : State, ∃ t, exec (.ldImm x kk) s = .next t ∧ t.getV x = kk ∧ KeepsAllBut [x] [] s t

/-- R111. -/
def Obligations.AddImmWrapsWithoutFlag : Prop :=
  ∀ (x : RegIdx) (kk : Byte), decodeWord (0x7#4 ++ x ++ kk) = .ok (.addImm x kk) ∧
    ∀ s : State, ∃ t, exec (.addImm x kk) s = .next t ∧
      (t.getV x).toNat = ((s.getV x).toNat + kk.toNat) % 256 ∧ KeepsAllBut [x] [] s t

/-- R112. -/
def Obligations.LdISetsTheIndexRegister : Prop :=
  ∀ nnn : Addr, decodeWord (0xA#4 ++ nnn) = .ok (.ldI nnn) ∧
    ∀ s : State, ∃ t, exec (.ldI nnn) s = .next t ∧ t.index.toNat = nnn.toNat ∧ KeepsAllBut [] [.index] s t

/-- R113, with the random byte as the model's free value `Config.rnd` of a draw counter (assumption 4): the masked byte,
never above the mask, and the next execution draws anew. -/
def Obligations.RndMasksAFreeByte : Prop :=
  ∀ (x : RegIdx) (kk : Byte), decodeWord (0xC#4 ++ x ++ kk) = .ok (.rnd x kk) ∧
    ∀ s : State, ∃ t, exec (.rnd x kk) s = .next t ∧ t.getV x = Config.rnd s.draws &&& kk ∧ t.getV x &&& ~~~kk = 0x00#8 ∧
      (t.getV x).toNat ≤ kk.toNat ∧ t.draws = s.draws + 1 ∧ KeepsAllBut [x] [.draws] s t

/-! ### Register ALU (spec/44_alu_register.md) -/

/-- R120. -/
def Obligations.LdRegCopies : Prop :=
  ∀ x y : RegIdx, decodeWord (0x8#4 ++ x ++ y ++ 0x0#4) = .ok (.ldReg x y) ∧
    ∀ s : State, ∃ t, exec (.ldReg x y) s = .next t ∧ t.getV x = s.getV y ∧ KeepsAllBut [x] [] s t

/-- R121, bit by bit. -/
def Obligations.OrRegIsBitwiseWithoutFlag : Prop :=
  ∀ x y : RegIdx, decodeWord (0x8#4 ++ x ++ y ++ 0x1#4) = .ok (.orReg x y) ∧
    ∀ s : State, ∃ t, exec (.orReg x y) s = .next t ∧
      (∀ j, j < 8 → (t.getV x).getLsbD j = ((s.getV x).getLsbD j || (s.getV y).getLsbD j)) ∧ KeepsAllBut [x] [] s t

/-- R122, bit by bit. -/
def Obligations.AndRegIsBitwiseWithoutFlag : Prop :=
  ∀ x y : RegIdx, decodeWord (0x8#4 ++ x ++ y ++ 0x2#4) = .ok (.andReg x y) ∧
    ∀ s : State, ∃ t, exec (.andReg x y) s = .next t ∧
      (∀ j, j < 8 → (t.getV x).getLsbD j = ((s.getV x).getLsbD j && (s.getV y).getLsbD j)) ∧ KeepsAllBut [x] [] s t

/-- R123, bit by bit. -/
def Obligations.XorRegIsBitwiseWithoutFlag : Prop :=
  ∀ x y : RegIdx, decodeWord (0x8#4 ++ x ++ y ++ 0x3#4) = .ok (.xorReg x y) ∧
    ∀ s : State, ∃ t, exec (.xorReg x y) s = .next t ∧
      (∀ j, j < 8 → (t.getV x).getLsbD j = ((s.getV x).getLsbD j ^^ (s.getV y).getLsbD j)) ∧ KeepsAllBut [x] [] s t

/-- R124, with the flag write of R129. -/
def Obligations.AddRegSetsTheCarryOut : Prop :=
  ∀ x y : RegIdx, decodeWord (0x8#4 ++ x ++ y ++ 0x4#4) = .ok (.addReg x y) ∧
    ∀ s : State, ∃ t, exec (.addReg x y) s = .next t ∧
      ResultThenFlag x (BitVec.ofNat 8 ((s.getV x).toNat + (s.getV y).toNat))
        (decide (255 < (s.getV x).toNat + (s.getV y).toNat)) s t

/-- R125, with the flag write of R129: strict comparison, so the flag is 0 at equality. -/
def Obligations.SubRegFlagsStrictlyGreater : Prop :=
  ∀ x y : RegIdx, decodeWord (0x8#4 ++ x ++ y ++ 0x5#4) = .ok (.subReg x y) ∧
    ∀ s : State, ∃ t, exec (.subReg x y) s = .next t ∧
      ResultThenFlag x (BitVec.ofNat 8 (256 + (s.getV x).toNat - (s.getV y).toNat))
        (decide ((s.getV y).toNat < (s.getV x).toNat)) s t

/-- R126, with the flag write of R129: any `y`, and `V[y]` is not read. -/
def Obligations.ShrHalvesAndFlagsTheLowBit : Prop :=
  ∀ x y : RegIdx, decodeWord (0x8#4 ++ x ++ y ++ 0x6#4) = .ok (.shr x y) ∧
    ∀ s : State, ∃ t, exec (.shr x y) s = .next t ∧
      ResultThenFlag x (BitVec.ofNat 8 ((s.getV x).toNat / 2)) (decide ((s.getV x).toNat % 2 = 1)) s t

/-- R127, with the flag write of R129. -/
def Obligations.SubnSubtractsInReverse : Prop :=
  ∀ x y : RegIdx, decodeWord (0x8#4 ++ x ++ y ++ 0x7#4) = .ok (.subn x y) ∧
    ∀ s : State, ∃ t, exec (.subn x y) s = .next t ∧
      ResultThenFlag x (BitVec.ofNat 8 (256 + (s.getV y).toNat - (s.getV x).toNat))
        (decide ((s.getV x).toNat < (s.getV y).toNat)) s t

/-- R128, with the flag write of R129: any `y`, and `V[y]` is not read. -/
def Obligations.ShlDoublesAndFlagsTheHighBit : Prop :=
  ∀ x y : RegIdx, decodeWord (0x8#4 ++ x ++ y ++ 0xE#4) = .ok (.shl x y) ∧
    ∀ s : State, ∃ t, exec (.shl x y) s = .next t ∧
      ResultThenFlag x (BitVec.ofNat 8 (2 * (s.getV x).toNat)) (decide (128 ≤ (s.getV x).toNat)) s t

/-! ### Debug and unimplemented (spec/45_debug_and_unimplemented.md) -/

/-- R140: the dump request is asserted and nothing else changes. That the output is held in State is the model's choice
(assumption 6). -/
def Obligations.DumpOnlyAssertsTheRequest : Prop :=
  decodeWord 0x0FFF#16 = .ok .dump ∧
  ∀ s : State, ∃ t, exec .dump s = .next t ∧ t.dumpReq = true ∧ KeepsAllBut [] [.dumpReq] s t

/-- R141 to R145, R155: CLS, DRW, SKP, SKNP and FXXX take the UnimplementedOpcode fault with their own word, whatever
their fields, and nothing else changes. -/
def Obligations.UnimplementedPatternsFault : Prop :=
  (decodeWord 0x00E0#16 = .ok .cls ∧ (∀ x y n, decodeWord (0xD#4 ++ x ++ y ++ n) = .ok (.drw x y n)) ∧
    (∀ x, decodeWord (0xE#4 ++ x ++ 0x9E#8) = .ok (.skp x)) ∧ (∀ x, decodeWord (0xE#4 ++ x ++ 0xA1#8) = .ok (.sknp x)) ∧
    (∀ nnn, decodeWord (0xF#4 ++ nnn) = .ok (.fxxx nnn))) ∧
  ∀ s : State,
    (∃ t, exec .cls s = .next t ∧ FaultedFrom 5#3 0x00E0#16 s t) ∧
    (∀ x y n, ∃ t, exec (.drw x y n) s = .next t ∧ FaultedFrom 5#3 (0xD#4 ++ x ++ y ++ n) s t) ∧
    (∀ x, ∃ t, exec (.skp x) s = .next t ∧ FaultedFrom 5#3 (0xE#4 ++ x ++ 0x9E#8) s t) ∧
    (∀ x, ∃ t, exec (.sknp x) s = .next t ∧ FaultedFrom 5#3 (0xE#4 ++ x ++ 0xA1#8) s t) ∧
    (∀ nnn, ∃ t, exec (.fxxx nnn) s = .next t ∧ FaultedFrom 5#3 (0xF#4 ++ nnn) s t)

/-! ### Whole-machine rules -/

/-- R38, R22: whatever the instruction, only the register its `x` field names changes, and VF for the five flag writers
under `VF_MIRROR`.
That the parameter `VF_MIRROR` is read from State is the model's choice (assumption 5). -/
def Obligations.RegistersChangeOnlyAsTabulated : Prop :=
  ∀ (i : Instr) (s t : State), exec i s = .next t → ∀ r : RegIdx, ¬ MayWriteReg i s r → t.getV r = s.getV r

/-- R25, R27, R30, R33, R34: `CF` is written by the five flag writers only, `I` by LD I only, the stack and `sp` by CALL
and RET only, the dump output by DUMP only, and a byte is drawn by RND only.
The dump output in State (assumption 6) and the counter of draws (assumption 4) are the model's choice. -/
def Obligations.SpecialStateHasItsOwnWriters : Prop :=
  ∀ (i : Instr) (s t : State), exec i s = .next t →
    (i.writesFlag = false → t.cf = s.cf) ∧ ((∀ nnn, i ≠ .ldI nnn) → t.index = s.index) ∧
    ((∀ nnn, i ≠ .call nnn) → t.stack = s.stack) ∧ (i ≠ .ret → (∀ nnn, i ≠ .call nnn) → t.sp = s.sp) ∧
    (i ≠ .dump → t.dumpReq = s.dumpReq) ∧ ((∀ x kk, i ≠ .rnd x kk) → t.draws = s.draws)

/-- R24: where each instruction leaves `pc`, `pc` being `pc_fetch + 2` before it.
`pc_fetch` is `pc - 2`, and the sums are modulo `2^16`, which no run reaches (assumption 10). -/
def Obligations.ProgramCounterAfterEachInstruction : Prop :=
  ∀ (i : Instr) (s t : State), exec i s = .next t → t.pc =
    match i with
    | .jp nnn => if nnn.setWidth 16 = s.pc - 2#16 then 0x1000#16 else nnn.setWidth 16
    | .call nnn => if s.sp = 16 then s.pc else nnn.setWidth 16
    | .ret => if s.sp = 0 then s.pc else s.stack.toList.getD (s.sp.val - 1) 0x0000#16
    | .jpV0 nnn => nnn.setWidth 16 + (s.getV 0#4).setWidth 16
    | .seImm x kk => if s.getV x = kk then s.pc + 2#16 else s.pc
    | .sneImm x kk => if s.getV x = kk then s.pc else s.pc + 2#16
    | .seReg x y => if s.getV x = s.getV y then s.pc + 2#16 else s.pc
    | .sneReg x y => if s.getV x = s.getV y then s.pc else s.pc + 2#16
    | .cls | .dump | .ldImm _ _ | .addImm _ _ | .ldReg _ _ | .orReg _ _ | .andReg _ _ | .xorReg _ _ | .addReg _ _
    | .subReg _ _ | .shr _ _ | .subn _ _ | .shl _ _ | .ldI _ | .rnd _ _ | .drw _ _ _ | .skp _ | .sknp _ | .fxxx _ => s.pc

/-- R25, R30: no step reads `CF` or `I`: two cores that differ only in them step to cores that differ at most in them, and
each of the two is then either kept by both steps or the same after both. -/
def Obligations.FlagAndIndexAreNeverRead : Prop :=
  ∀ (s t : State) (c : Bool) (w : Word), step s = .next t →
    ∃ (c' : Bool) (w' : Word), step { s with cf := c, index := w } = .next { t with cf := c', index := w' } ∧
      ((t.cf = s.cf ∧ c' = c) ∨ c' = t.cf) ∧ ((t.index = s.index ∧ w' = w) ∨ w' = t.index)

/-- R160: faults are precise: a step that ends in FAULTED leaves every register, flag, stack entry and memory byte as they
were, `pc` unchanged for a fetch fault and past the faulting instruction for every other. It says nothing of the dump output, which
the model holds in State (assumption 6). -/
def Obligations.FaultsArePrecise : Prop :=
  ∀ s t : State, s.runState = .executing → step s = .next t → t.runState = .faulted →
    KeepsAllBut [] [.pc, .runState, .faultKind, .faultInfo, .dumpReq] s t ∧
    (t.faultKind = 1#3 → t.pc = s.pc ∧ s.pc = 0x0FFF#16) ∧ (t.faultKind ≠ 1#3 → t.pc = s.pc + 2#16)

/-- R42, R43: no run writes memory, and none changes the parameter.
The parameter's place in State is the model's choice (assumption 5), and so are the steps of a run that is over or not
begun (assumption 2). -/
def Obligations.MemoryIsConstantDuringARun : Prop :=
  ∀ (k : Nat) (s t : State), run k s = .next t → t.mem = s.mem ∧ t.vfMirror = s.vfMirror

/-- Every step keeps the invariant of the core's records (R25, R32, R81, R150). Two clauses of it are the model's: the
dump output held in State (assumption 6) and the canonical form of memory (assumption 15). -/
def Obligations.StepKeepsGoodState : Prop := ∀ s t : State, GoodState s → step s = .next t → GoodState t

/-- R24, R90: every step keeps `pc` at most `0x10FE` and every stacked address at most `0x1000`. -/
def Obligations.StepKeepsPcBounded : Prop := ∀ s t : State, PcBounded s → step s = .next t → PcBounded t

/-- Every step keeps the latched fault true to the state it was raised in (R150 to R156, R161). -/
def Obligations.StepKeepsFaultRecordTrue : Prop := ∀ s t : State, FaultRecordTrue s → step s = .next t → FaultRecordTrue t

/-- The three invariants hold at reset. Two clauses of `GoodState` are the model's and no rule of the spec: that the dump
output is not asserted at reset (a value the spec does not give, assumption 6) and that memory is in canonical form
(assumption 15). -/
def Obligations.ResetSatisfiesTheInvariants : Prop :=
  GoodState State.reset ∧ PcBounded State.reset ∧ FaultRecordTrue State.reset

/-! ### The host (spec/10_state.md R34, spec/70_reset_and_hazards.md) -/

/-- Whatever the host does, the invariant of the core's records is kept. Two clauses of it are the model's and no rule of
the spec: that a reset leaves the dump output not asserted (a value the spec does not give, assumption 6) and that memory is
in canonical form (assumption 15).
That the host's acts are operations beside the step is the model's choice (assumption 14). -/
def Obligations.HostKeepsGoodState : Prop :=
  ∀ s : State, GoodState s →
    GoodState (resetCore s) ∧ GoodState (startCore s) ∧ (∀ t, GoodState (hostSetPc t s)) ∧
    (∀ a b, GoodState (hostWrite a b s)) ∧ (∀ image t, loadImage image s = .ok t → GoodState t)

/-- R34, R42: the host's write stores its byte in IDLE and nothing else, and does nothing in any other state; so does its
write of `pc`.
It is said of memory in canonical form (assumption 15); that the host's acts are operations beside the step is the
model's choice (assumption 14). -/
def Obligations.HostWritesOnlyInIdle : Prop :=
  ∀ (s : State) (a : Addr) (b : Byte) (w : Word),
    (s.runState = .idle → s.mem.wf = true →
      (∀ a' : Nat, (hostWrite a b s).mem.read a' = if a' = a.toNat then b else s.mem.read a') ∧
      (hostWrite a b s) = { s with mem := (hostWrite a b s).mem } ∧ hostSetPc w s = { s with pc := w }) ∧
    (s.runState ≠ .idle → hostWrite a b s = s ∧ hostSetPc w s = s)

/-- R184: `start` in IDLE sets EXECUTING and changes nothing else, elsewhere it does nothing; started straight after reset,
or after the load of an empty image, the core faults with UnknownOpcode(0).
That the host's acts are operations beside the step is the model's choice (assumption 14). -/
def Obligations.StartOnlyLeavesIdle : Prop :=
  (∀ s : State, (s.runState = .idle → startCore s = { s with runState := .executing }) ∧
    (s.runState ≠ .idle → startCore s = s)) ∧
  (∃ t, step (startCore State.reset) = .next t ∧ t.runState = .faulted ∧ t.faultKind = 6#3 ∧ t.faultInfo = 0x0000#16 ∧
    t.pc = 0x0002#16) ∧
  (∃ u t, loadImage [] State.reset = .ok u ∧ step (startCore u) = .next t ∧ t.runState = .faulted ∧ t.faultKind = 6#3 ∧
    t.faultInfo = 0x0000#16 ∧ t.pc = 0x0202#16)

/-- R182, R183: loading an image of at most 3584 bytes after a reset from any state, and starting, gives its launch state;
a longer image is refused with ImageLoadFailure.
The model's choice are the host's acts as operations beside the step (assumption 14) and the load of bytes in place of
a file (assumption 12). -/
def Obligations.LoadedImageLaunches : Prop :=
  ∀ (s : State) (image : List Byte),
    (image.length ≤ 3584 → ∃ t, loadImage image (resetCore s) = .ok t ∧ LaunchState image (startCore t)) ∧
    (3584 < image.length → loadImage image s = .error .imageLoadFailure)
end

