-- ==== Sys2Proof/Laws/Decode.lean ====
section
/-! SUPPORT. The fields of a word as numbers, and the fields of a word put together from pieces, for the shapes of R62. -/

namespace Sys2Proof.Laws

/-- The number of two pieces, the first high. -/
theorem toNat_append_pieces {n m : Nat} (a : BitVec n) (b : BitVec m) : (a ++ b).toNat = a.toNat * 2 ^ m + b.toNat := by
  rw [BitVec.toNat_append, ← Nat.shiftLeft_add_eq_or_of_lt b.isLt, Nat.shiftLeft_eq]

/-! ### Fields as numbers (R61) -/

theorem opField_toNat (w : Word) : (opField w).toNat = w.toNat / 4096 := by
  have := w.isLt
  rw [opField, BitVec.extractLsb'_toNat, Nat.shiftRight_eq_div_pow]; omega

theorem xField_toNat (w : Word) : (xField w).toNat = w.toNat / 256 % 16 := by
  rw [xField, BitVec.extractLsb'_toNat, Nat.shiftRight_eq_div_pow]

theorem yField_toNat (w : Word) : (yField w).toNat = w.toNat / 16 % 16 := by
  rw [yField, BitVec.extractLsb'_toNat, Nat.shiftRight_eq_div_pow]

theorem nField_toNat (w : Word) : (nField w).toNat = w.toNat % 16 := by
  rw [nField, BitVec.extractLsb'_toNat, Nat.shiftRight_eq_div_pow]; omega

theorem kkField_toNat (w : Word) : (kkField w).toNat = w.toNat % 256 := by
  rw [kkField, BitVec.extractLsb'_toNat, Nat.shiftRight_eq_div_pow]; omega

theorem nnnField_toNat (w : Word) : (nnnField w).toNat = w.toNat % 4096 := by
  rw [nnnField, BitVec.extractLsb'_toNat, Nat.shiftRight_eq_div_pow]; omega

/-! ### Words as numbers -/

theorem nnn_toNat (a : Nibble) (nnn : Addr) : BitVec.toNat (w := 16) (a ++ nnn) = a.toNat * 4096 + nnn.toNat :=
  toNat_append_pieces a nnn

theorem xkk_toNat (a : Nibble) (x : RegIdx) (kk : Byte) :
    BitVec.toNat (w := 16) (a ++ x ++ kk) = a.toNat * 4096 + x.toNat * 256 + kk.toNat := by
  have h1 := toNat_append_pieces (a ++ x) kk
  have h2 := toNat_append_pieces a x
  rw [h2] at h1
  refine h1.trans ?_
  omega

theorem xyn_toNat (a : Nibble) (x y : RegIdx) (n : Nibble) :
    BitVec.toNat (w := 16) (a ++ x ++ y ++ n) = a.toNat * 4096 + x.toNat * 256 + y.toNat * 16 + n.toNat := by
  have h1 := toNat_append_pieces (a ++ x ++ y) n
  have h2 := toNat_append_pieces (a ++ x) y
  have h3 := toNat_append_pieces a x
  rw [h2, h3] at h1
  refine h1.trans ?_
  omega

theorem wordOfBytes_toNat (hi lo : Byte) : (wordOfBytes hi lo).toNat = hi.toNat * 256 + lo.toNat :=
  toNat_append_pieces hi lo

/-! ### The fields of a word put together -/

@[simp] theorem opField_nnn (a : Nibble) (nnn : Addr) : opField (a ++ nnn) = a := by
  apply BitVec.eq_of_toNat_eq; rw [opField_toNat, nnn_toNat]; omega

@[simp] theorem nnnField_nnn (a : Nibble) (nnn : Addr) : nnnField (a ++ nnn) = nnn := by
  apply BitVec.eq_of_toNat_eq; rw [nnnField_toNat, nnn_toNat]; omega

@[simp] theorem opField_xkk (a : Nibble) (x : RegIdx) (kk : Byte) : opField (a ++ x ++ kk) = a := by
  apply BitVec.eq_of_toNat_eq; rw [opField_toNat, xkk_toNat]; omega

@[simp] theorem xField_xkk (a : Nibble) (x : RegIdx) (kk : Byte) : xField (a ++ x ++ kk) = x := by
  apply BitVec.eq_of_toNat_eq; rw [xField_toNat, xkk_toNat]; omega

@[simp] theorem kkField_xkk (a : Nibble) (x : RegIdx) (kk : Byte) : kkField (a ++ x ++ kk) = kk := by
  apply BitVec.eq_of_toNat_eq; rw [kkField_toNat, xkk_toNat]; omega

@[simp] theorem opField_xyn (a : Nibble) (x y : RegIdx) (n : Nibble) : opField (a ++ x ++ y ++ n) = a := by
  apply BitVec.eq_of_toNat_eq; rw [opField_toNat, xyn_toNat]; omega

@[simp] theorem xField_xyn (a : Nibble) (x y : RegIdx) (n : Nibble) : xField (a ++ x ++ y ++ n) = x := by
  apply BitVec.eq_of_toNat_eq; rw [xField_toNat, xyn_toNat]; omega

@[simp] theorem yField_xyn (a : Nibble) (x y : RegIdx) (n : Nibble) : yField (a ++ x ++ y ++ n) = y := by
  apply BitVec.eq_of_toNat_eq; rw [yField_toNat, xyn_toNat]; omega

@[simp] theorem nField_xyn (a : Nibble) (x y : RegIdx) (n : Nibble) : nField (a ++ x ++ y ++ n) = n := by
  apply BitVec.eq_of_toNat_eq; rw [nField_toNat, xyn_toNat]; omega

/-! ### Every word is its fields put together -/

theorem fields_nnn (w : Word) : opField w ++ nnnField w = w := by
  apply BitVec.eq_of_toNat_eq; rw [nnn_toNat, opField_toNat, nnnField_toNat]; omega

theorem fields_xkk (w : Word) : opField w ++ xField w ++ kkField w = w := by
  apply BitVec.eq_of_toNat_eq; rw [xkk_toNat, opField_toNat, xField_toNat, kkField_toNat]; omega

theorem fields_xyn (w : Word) : opField w ++ xField w ++ yField w ++ nField w = w := by
  apply BitVec.eq_of_toNat_eq; rw [xyn_toNat, opField_toNat, xField_toNat, yField_toNat, nField_toNat]; omega

@[simp] theorem wordOfBytes_bytes (w : Word) : wordOfBytes (hiByte w) (loByte w) = w := by
  apply BitVec.eq_of_toNat_eq
  have := w.isLt
  rw [wordOfBytes_toNat, hiByte, loByte, BitVec.extractLsb'_toNat, BitVec.extractLsb'_toNat,
    Nat.shiftRight_eq_div_pow, Nat.shiftRight_eq_div_pow]
  omega

/-! ### The decoder by its first field (R84) -/

/-- A nibble is one of sixteen. -/
theorem nibble_cases (a : Nibble) :
    a = 0x0#4 ∨ a = 0x1#4 ∨ a = 0x2#4 ∨ a = 0x3#4 ∨ a = 0x4#4 ∨ a = 0x5#4 ∨ a = 0x6#4 ∨ a = 0x7#4 ∨
    a = 0x8#4 ∨ a = 0x9#4 ∨ a = 0xA#4 ∨ a = 0xB#4 ∨ a = 0xC#4 ∨ a = 0xD#4 ∨ a = 0xE#4 ∨ a = 0xF#4 := by
  decide +revert

section
variable {w : Word}

theorem decodeWord_op0 (h : opField w = 0x0#4) : decodeWord w = decodeOp0 w := by simp [decodeWord, h]
theorem decodeWord_op1 (h : opField w = 0x1#4) : decodeWord w = .ok (.jp (nnnField w)) := by simp [decodeWord, h]
theorem decodeWord_op2 (h : opField w = 0x2#4) : decodeWord w = .ok (.call (nnnField w)) := by simp [decodeWord, h]
theorem decodeWord_op3 (h : opField w = 0x3#4) : decodeWord w = .ok (.seImm (xField w) (kkField w)) := by simp [decodeWord, h]
theorem decodeWord_op4 (h : opField w = 0x4#4) : decodeWord w = .ok (.sneImm (xField w) (kkField w)) := by simp [decodeWord, h]
theorem decodeWord_op5 (h : opField w = 0x5#4) : decodeWord w = decodeOp5 w := by simp [decodeWord, h]
theorem decodeWord_op6 (h : opField w = 0x6#4) : decodeWord w = .ok (.ldImm (xField w) (kkField w)) := by simp [decodeWord, h]
theorem decodeWord_op7 (h : opField w = 0x7#4) : decodeWord w = .ok (.addImm (xField w) (kkField w)) := by simp [decodeWord, h]
theorem decodeWord_op8 (h : opField w = 0x8#4) : decodeWord w = decodeOp8 w := by simp [decodeWord, h]
theorem decodeWord_op9 (h : opField w = 0x9#4) : decodeWord w = decodeOp9 w := by simp [decodeWord, h]
theorem decodeWord_opA (h : opField w = 0xA#4) : decodeWord w = .ok (.ldI (nnnField w)) := by simp [decodeWord, h]
theorem decodeWord_opB (h : opField w = 0xB#4) : decodeWord w = .ok (.jpV0 (nnnField w)) := by simp [decodeWord, h]
theorem decodeWord_opC (h : opField w = 0xC#4) : decodeWord w = .ok (.rnd (xField w) (kkField w)) := by simp [decodeWord, h]
theorem decodeWord_opD (h : opField w = 0xD#4) : decodeWord w = .ok (.drw (xField w) (yField w) (nField w)) := by simp [decodeWord, h]
theorem decodeWord_opE (h : opField w = 0xE#4) : decodeWord w = decodeOpE w := by simp [decodeWord, h]
theorem decodeWord_opF (h : opField w = 0xF#4) : decodeWord w = .ok (.fxxx (nnnField w)) := by simp [decodeWord, h]

end

/-! ### Masks by pieces (R64) -/

theorem and_F (a : Nibble) : a &&& 0xF#4 = a := by decide +revert

theorem and_FF (kk : Byte) : kk &&& 0xFF#8 = kk := BitVec.and_allOnes

/-- The mask `F000` keeps `op`. -/
theorem mask_nnn (a : Nibble) (nnn : Addr) : ((a ++ nnn : BitVec (4 + 12)) : Word) &&& 0xF000#16 = a ++ 0x000#12 := by
  refine (BitVec.and_append (x₁ := a) (y₁ := nnn) (x₂ := 0xF#4) (y₂ := 0x000#12)).trans ?_
  rw [and_F, BitVec.and_zero]

/-- The mask `F0FF` keeps `op` and `kk`. -/
theorem mask_xkk (a : Nibble) (x : RegIdx) (kk : Byte) :
    ((a ++ x ++ kk : BitVec (4 + 4 + 8)) : Word) &&& 0xF0FF#16 = a ++ 0x0#4 ++ kk := by
  refine (BitVec.and_append (x₁ := a ++ x) (y₁ := kk) (x₂ := 0xF#4 ++ 0x0#4) (y₂ := 0xFF#8)).trans ?_
  rw [BitVec.and_append, and_F, BitVec.and_zero, and_FF]

/-- The mask `F00F` keeps `op` and `n`. -/
theorem mask_xyn (a : Nibble) (x y : RegIdx) (n : Nibble) :
    ((a ++ x ++ y ++ n : BitVec (4 + 4 + 4 + 4)) : Word) &&& 0xF00F#16 = a ++ 0x0#4 ++ 0x0#4 ++ n := by
  refine (BitVec.and_append (x₁ := a ++ x ++ y) (y₁ := n) (x₂ := 0xF#4 ++ 0x0#4 ++ 0x0#4) (y₂ := 0xF#4)).trans ?_
  rw [BitVec.and_append, BitVec.and_append, and_F, and_F, BitVec.and_zero, BitVec.and_zero]

end Sys2Proof.Laws
end

