-- ==== Sys2Proof/Laws/Memory.lean ====
section
/-! SUPPORT. The laws of the memory list: the canonical form, and reading after writing. -/

namespace Sys2Proof.Laws

open Sys2Proof.Machine

@[simp] theorem read_nil (a : Nat) : Memory.read [] a = 0x00#8 := rfl

@[simp] theorem reset_mem_wf : Memory.wf State.reset.mem = true := rfl

theorem wfFrom_cons {lo a : Nat} {b : Byte} {m : Memory} :
    Memory.wfFrom lo ((a, b) :: m) = true ↔
      lo ≤ a ∧ a < Config.memSize ∧ b ≠ 0x00#8 ∧ Memory.wfFrom (a + 1) m = true := by
  simp [Memory.wfFrom, and_assoc]

/-- The canonical form from an address on is one from every lower address on. -/
theorem wfFrom_mono {lo lo' : Nat} {m : Memory} (hle : lo' ≤ lo) (h : Memory.wfFrom lo m = true) :
    Memory.wfFrom lo' m = true := by
  cases m with
  | nil => rfl
  | cons c m =>
    obtain ⟨a, b⟩ := c
    rw [wfFrom_cons] at h ⊢
    exact ⟨le_trans hle h.1, h.2⟩

/-- Below the first address of a canonical list every cell reads as unlisted. -/
theorem read_below {lo : Nat} {m : Memory} (h : Memory.wfFrom lo m = true) {a : Nat} (ha : a < lo) :
    Memory.read m a = 0x00#8 := by
  induction m generalizing lo with
  | nil => rfl
  | cons c m ih =>
    obtain ⟨a', b⟩ := c
    obtain ⟨h1, -, -, h4⟩ := wfFrom_cons.mp h
    simp only [Memory.read]
    rw [if_neg (by omega)]
    exact ih h4 (by omega)

theorem cons_wfFrom {lo a : Nat} {b : Byte} {m : Memory} (hlo : lo ≤ a) (ha : a < Config.memSize)
    (h : Memory.wfFrom (a + 1) m = true) : Memory.wfFrom lo (Memory.cons a b m) = true := by
  unfold Memory.cons
  split
  · exact wfFrom_mono (by omega) h
  · exact wfFrom_cons.mpr ⟨hlo, ha, ‹_›, h⟩

theorem write_wfFrom {lo a : Nat} {b : Byte} {m : Memory} (hlo : lo ≤ a) (ha : a < Config.memSize)
    (h : Memory.wfFrom lo m = true) : Memory.wfFrom lo (Memory.write m a b) = true := by
  induction m generalizing lo with
  | nil => exact cons_wfFrom hlo ha rfl
  | cons c m ih =>
    obtain ⟨a', b'⟩ := c
    obtain ⟨h1, h2, h3, h4⟩ := wfFrom_cons.mp h
    simp only [Memory.write]
    split
    · exact cons_wfFrom hlo ha (wfFrom_cons.mpr ⟨by omega, h2, h3, h4⟩)
    · split
      · subst a'
        exact cons_wfFrom hlo ha h4
      · exact wfFrom_cons.mpr ⟨h1, h2, h3, ih (by omega) h4⟩

/-- A write inside memory keeps the canonical form. -/
theorem write_wf {m : Memory} {a : Nat} {b : Byte} (ha : a < Config.memSize) (h : m.wf = true) :
    (m.write a b).wf = true := write_wfFrom (Nat.zero_le a) ha h

theorem read_cons {lo a : Nat} {b : Byte} {m : Memory} (h : Memory.wfFrom lo m = true) (ha : a < lo) (a' : Nat) :
    (Memory.cons a b m).read a' = if a' = a then b else m.read a' := by
  unfold Memory.cons
  split
  · split
    · subst a'; rw [read_below h ha]; exact Eq.symm ‹_›
    · rfl
  · rfl

theorem read_write_from {lo a : Nat} {b : Byte} {m : Memory} (h : Memory.wfFrom lo m = true) (a' : Nat) :
    (m.write a b).read a' = if a' = a then b else m.read a' := by
  induction m generalizing lo with
  | nil => exact read_cons (lo := a + 1) rfl (by omega) a'
  | cons c m ih =>
    obtain ⟨a₀, b₀⟩ := c
    obtain ⟨h1, h2, h3, h4⟩ := wfFrom_cons.mp h
    simp only [Memory.write]
    split
    · exact read_cons (lo := a₀) (wfFrom_cons.mpr ⟨le_refl _, h2, h3, h4⟩) (by omega) a'
    · split
      · subst a₀
        rw [read_cons h4 (by omega) a']
        simp only [Memory.read]
        split <;> simp_all
      · simp only [Memory.read, ih h4]
        split
        · rw [if_neg (by omega)]
        · rfl

/-- Every cell of a canonical memory after a write: the written one holds the byte, the others what they held. -/
theorem read_write {m : Memory} (h : m.wf = true) (a : Nat) (b : Byte) (a' : Nat) :
    (m.write a b).read a' = if a' = a then b else m.read a' := read_write_from h a'

/-- The guarded write answers the fault, or the state with one byte of memory written (R42). -/
theorem memWrite_cases (addr : Word) (b : Byte) (s : State) :
    (Config.memSize ≤ addr.toNat ∧ memWrite addr b s = .error (.outOfRangeMemory addr)) ∨
    (addr.toNat < Config.memSize ∧ memWrite addr b s = .ok { s with mem := s.mem.write addr.toNat b }) := by
  unfold memWrite
  split
  · exact .inl ⟨‹_›, rfl⟩
  · exact .inr ⟨by omega, rfl⟩

/-- The guarded write keeps the canonical form (R42). -/
theorem memWrite_wf {addr : Word} {b : Byte} {s t : State} (h : s.mem.wf = true) (ht : memWrite addr b s = .ok t) :
    t.mem.wf = true := by
  rcases memWrite_cases addr b s with ⟨_, e⟩ | ⟨hlt, e⟩ <;> rw [e] at ht <;> cases ht
  exact write_wf hlt h

/-- The host's byte write keeps the canonical form (R34). -/
theorem hostWrite_wf (addr : Addr) (b : Byte) {s : State} (h : s.mem.wf = true) :
    (hostWrite addr b s).mem.wf = true := by
  unfold hostWrite
  split
  · exact write_wf addr.isLt h
  · exact h

/-- The loader's byte writes keep the canonical form (R182). -/
theorem hostWriteBytes_wf (addr : Addr) (bs : List Byte) {s : State} (h : s.mem.wf = true) :
    (hostWriteBytes addr bs s).mem.wf = true := by
  induction bs generalizing addr s with
  | nil => exact h
  | cons b bs ih => exact ih _ (hostWrite_wf addr b h)

/-- Placing a word inside memory keeps the canonical form. -/
theorem placeWord_wf {a : Nat} (w : Word) {s : State} (ha : a + 1 < Config.memSize) (h : s.mem.wf = true) :
    (placeWord a w s).mem.wf = true := write_wf ha (write_wf (by omega) h)

end Sys2Proof.Laws
end

