-- ==== Sys2Proof/Laws/State.lean ====
section
/-! SUPPORT. One lemma per field per update of the state, so that no proof unfolds a record update. -/

namespace Sys2Proof.Laws

open Sys2Proof.Machine

variable (s : State)

@[simp] theorem setV_mem (x : RegIdx) (b : Byte) : (s.setV x b).mem = s.mem := rfl
@[simp] theorem setV_v (x : RegIdx) (b : Byte) : (s.setV x b).v = s.v.set x.toNat b x.isLt := rfl
@[simp] theorem setV_stack (x : RegIdx) (b : Byte) : (s.setV x b).stack = s.stack := rfl
@[simp] theorem setV_sp (x : RegIdx) (b : Byte) : (s.setV x b).sp = s.sp := rfl
@[simp] theorem setV_pc (x : RegIdx) (b : Byte) : (s.setV x b).pc = s.pc := rfl
@[simp] theorem setV_index (x : RegIdx) (b : Byte) : (s.setV x b).index = s.index := rfl
@[simp] theorem setV_cf (x : RegIdx) (b : Byte) : (s.setV x b).cf = s.cf := rfl
@[simp] theorem setV_runState (x : RegIdx) (b : Byte) : (s.setV x b).runState = s.runState := rfl
@[simp] theorem setV_faultKind (x : RegIdx) (b : Byte) : (s.setV x b).faultKind = s.faultKind := rfl
@[simp] theorem setV_faultInfo (x : RegIdx) (b : Byte) : (s.setV x b).faultInfo = s.faultInfo := rfl
@[simp] theorem setV_dumpReq (x : RegIdx) (b : Byte) : (s.setV x b).dumpReq = s.dumpReq := rfl
@[simp] theorem setV_vfMirror (x : RegIdx) (b : Byte) : (s.setV x b).vfMirror = s.vfMirror := rfl
@[simp] theorem setV_draws (x : RegIdx) (b : Byte) : (s.setV x b).draws = s.draws := rfl

@[simp] theorem setPc_mem (w : Word) : (s.setPc w).mem = s.mem := rfl
@[simp] theorem setPc_v (w : Word) : (s.setPc w).v = s.v := rfl
@[simp] theorem setPc_stack (w : Word) : (s.setPc w).stack = s.stack := rfl
@[simp] theorem setPc_sp (w : Word) : (s.setPc w).sp = s.sp := rfl
@[simp] theorem setPc_pc (w : Word) : (s.setPc w).pc = w := rfl
@[simp] theorem setPc_index (w : Word) : (s.setPc w).index = s.index := rfl
@[simp] theorem setPc_cf (w : Word) : (s.setPc w).cf = s.cf := rfl
@[simp] theorem setPc_runState (w : Word) : (s.setPc w).runState = s.runState := rfl
@[simp] theorem setPc_faultKind (w : Word) : (s.setPc w).faultKind = s.faultKind := rfl
@[simp] theorem setPc_faultInfo (w : Word) : (s.setPc w).faultInfo = s.faultInfo := rfl
@[simp] theorem setPc_dumpReq (w : Word) : (s.setPc w).dumpReq = s.dumpReq := rfl
@[simp] theorem setPc_vfMirror (w : Word) : (s.setPc w).vfMirror = s.vfMirror := rfl
@[simp] theorem setPc_draws (w : Word) : (s.setPc w).draws = s.draws := rfl
@[simp] theorem setPc_getV (w : Word) (r : RegIdx) : (s.setPc w).getV r = s.getV r := rfl

@[simp] theorem setIndex_mem (w : Word) : (s.setIndex w).mem = s.mem := rfl
@[simp] theorem setIndex_v (w : Word) : (s.setIndex w).v = s.v := rfl
@[simp] theorem setIndex_stack (w : Word) : (s.setIndex w).stack = s.stack := rfl
@[simp] theorem setIndex_sp (w : Word) : (s.setIndex w).sp = s.sp := rfl
@[simp] theorem setIndex_pc (w : Word) : (s.setIndex w).pc = s.pc := rfl
@[simp] theorem setIndex_index (w : Word) : (s.setIndex w).index = w := rfl
@[simp] theorem setIndex_cf (w : Word) : (s.setIndex w).cf = s.cf := rfl
@[simp] theorem setIndex_runState (w : Word) : (s.setIndex w).runState = s.runState := rfl
@[simp] theorem setIndex_faultKind (w : Word) : (s.setIndex w).faultKind = s.faultKind := rfl
@[simp] theorem setIndex_faultInfo (w : Word) : (s.setIndex w).faultInfo = s.faultInfo := rfl
@[simp] theorem setIndex_dumpReq (w : Word) : (s.setIndex w).dumpReq = s.dumpReq := rfl
@[simp] theorem setIndex_vfMirror (w : Word) : (s.setIndex w).vfMirror = s.vfMirror := rfl
@[simp] theorem setIndex_draws (w : Word) : (s.setIndex w).draws = s.draws := rfl
@[simp] theorem setIndex_getV (w : Word) (r : RegIdx) : (s.setIndex w).getV r = s.getV r := rfl

@[simp] theorem setCf_mem (b : Bool) : (s.setCf b).mem = s.mem := rfl
@[simp] theorem setCf_v (b : Bool) : (s.setCf b).v = s.v := rfl
@[simp] theorem setCf_stack (b : Bool) : (s.setCf b).stack = s.stack := rfl
@[simp] theorem setCf_sp (b : Bool) : (s.setCf b).sp = s.sp := rfl
@[simp] theorem setCf_pc (b : Bool) : (s.setCf b).pc = s.pc := rfl
@[simp] theorem setCf_index (b : Bool) : (s.setCf b).index = s.index := rfl
@[simp] theorem setCf_cf (b : Bool) : (s.setCf b).cf = b := rfl
@[simp] theorem setCf_runState (b : Bool) : (s.setCf b).runState = s.runState := rfl
@[simp] theorem setCf_faultKind (b : Bool) : (s.setCf b).faultKind = s.faultKind := rfl
@[simp] theorem setCf_faultInfo (b : Bool) : (s.setCf b).faultInfo = s.faultInfo := rfl
@[simp] theorem setCf_dumpReq (b : Bool) : (s.setCf b).dumpReq = s.dumpReq := rfl
@[simp] theorem setCf_vfMirror (b : Bool) : (s.setCf b).vfMirror = s.vfMirror := rfl
@[simp] theorem setCf_draws (b : Bool) : (s.setCf b).draws = s.draws := rfl
@[simp] theorem setCf_getV (b : Bool) (r : RegIdx) : (s.setCf b).getV r = s.getV r := rfl

@[simp] theorem skip_mem : (s.skip).mem = s.mem := rfl
@[simp] theorem skip_v : (s.skip).v = s.v := rfl
@[simp] theorem skip_stack : (s.skip).stack = s.stack := rfl
@[simp] theorem skip_sp : (s.skip).sp = s.sp := rfl
@[simp] theorem skip_pc : (s.skip).pc = nextPc s.pc := rfl
@[simp] theorem skip_index : (s.skip).index = s.index := rfl
@[simp] theorem skip_cf : (s.skip).cf = s.cf := rfl
@[simp] theorem skip_runState : (s.skip).runState = s.runState := rfl
@[simp] theorem skip_faultKind : (s.skip).faultKind = s.faultKind := rfl
@[simp] theorem skip_faultInfo : (s.skip).faultInfo = s.faultInfo := rfl
@[simp] theorem skip_dumpReq : (s.skip).dumpReq = s.dumpReq := rfl
@[simp] theorem skip_vfMirror : (s.skip).vfMirror = s.vfMirror := rfl
@[simp] theorem skip_draws : (s.skip).draws = s.draws := rfl
@[simp] theorem skip_getV (r : RegIdx) : (s.skip).getV r = s.getV r := rfl

@[simp] theorem assertDump_mem : (s.assertDump).mem = s.mem := rfl
@[simp] theorem assertDump_v : (s.assertDump).v = s.v := rfl
@[simp] theorem assertDump_stack : (s.assertDump).stack = s.stack := rfl
@[simp] theorem assertDump_sp : (s.assertDump).sp = s.sp := rfl
@[simp] theorem assertDump_pc : (s.assertDump).pc = s.pc := rfl
@[simp] theorem assertDump_index : (s.assertDump).index = s.index := rfl
@[simp] theorem assertDump_cf : (s.assertDump).cf = s.cf := rfl
@[simp] theorem assertDump_runState : (s.assertDump).runState = s.runState := rfl
@[simp] theorem assertDump_faultKind : (s.assertDump).faultKind = s.faultKind := rfl
@[simp] theorem assertDump_faultInfo : (s.assertDump).faultInfo = s.faultInfo := rfl
@[simp] theorem assertDump_dumpReq : (s.assertDump).dumpReq = true := rfl
@[simp] theorem assertDump_vfMirror : (s.assertDump).vfMirror = s.vfMirror := rfl
@[simp] theorem assertDump_draws : (s.assertDump).draws = s.draws := rfl
@[simp] theorem assertDump_getV (r : RegIdx) : (s.assertDump).getV r = s.getV r := rfl

@[simp] theorem clearDump_mem : (s.clearDump).mem = s.mem := rfl
@[simp] theorem clearDump_v : (s.clearDump).v = s.v := rfl
@[simp] theorem clearDump_stack : (s.clearDump).stack = s.stack := rfl
@[simp] theorem clearDump_sp : (s.clearDump).sp = s.sp := rfl
@[simp] theorem clearDump_pc : (s.clearDump).pc = s.pc := rfl
@[simp] theorem clearDump_index : (s.clearDump).index = s.index := rfl
@[simp] theorem clearDump_cf : (s.clearDump).cf = s.cf := rfl
@[simp] theorem clearDump_runState : (s.clearDump).runState = s.runState := rfl
@[simp] theorem clearDump_faultKind : (s.clearDump).faultKind = s.faultKind := rfl
@[simp] theorem clearDump_faultInfo : (s.clearDump).faultInfo = s.faultInfo := rfl
@[simp] theorem clearDump_dumpReq : (s.clearDump).dumpReq = false := rfl
@[simp] theorem clearDump_vfMirror : (s.clearDump).vfMirror = s.vfMirror := rfl
@[simp] theorem clearDump_draws : (s.clearDump).draws = s.draws := rfl
@[simp] theorem clearDump_getV (r : RegIdx) : (s.clearDump).getV r = s.getV r := rfl

@[simp] theorem halt_mem : (s.halt).mem = s.mem := rfl
@[simp] theorem halt_v : (s.halt).v = s.v := rfl
@[simp] theorem halt_stack : (s.halt).stack = s.stack := rfl
@[simp] theorem halt_sp : (s.halt).sp = s.sp := rfl
@[simp] theorem halt_pc : (s.halt).pc = s.pc := rfl
@[simp] theorem halt_index : (s.halt).index = s.index := rfl
@[simp] theorem halt_cf : (s.halt).cf = s.cf := rfl
@[simp] theorem halt_runState : (s.halt).runState = .halted := rfl
@[simp] theorem halt_faultKind : (s.halt).faultKind = s.faultKind := rfl
@[simp] theorem halt_faultInfo : (s.halt).faultInfo = s.faultInfo := rfl
@[simp] theorem halt_dumpReq : (s.halt).dumpReq = s.dumpReq := rfl
@[simp] theorem halt_vfMirror : (s.halt).vfMirror = s.vfMirror := rfl
@[simp] theorem halt_draws : (s.halt).draws = s.draws := rfl
@[simp] theorem halt_getV (r : RegIdx) : (s.halt).getV r = s.getV r := rfl

@[simp] theorem nextDraw_mem : (s.nextDraw).mem = s.mem := rfl
@[simp] theorem nextDraw_v : (s.nextDraw).v = s.v := rfl
@[simp] theorem nextDraw_stack : (s.nextDraw).stack = s.stack := rfl
@[simp] theorem nextDraw_sp : (s.nextDraw).sp = s.sp := rfl
@[simp] theorem nextDraw_pc : (s.nextDraw).pc = s.pc := rfl
@[simp] theorem nextDraw_index : (s.nextDraw).index = s.index := rfl
@[simp] theorem nextDraw_cf : (s.nextDraw).cf = s.cf := rfl
@[simp] theorem nextDraw_runState : (s.nextDraw).runState = s.runState := rfl
@[simp] theorem nextDraw_faultKind : (s.nextDraw).faultKind = s.faultKind := rfl
@[simp] theorem nextDraw_faultInfo : (s.nextDraw).faultInfo = s.faultInfo := rfl
@[simp] theorem nextDraw_dumpReq : (s.nextDraw).dumpReq = s.dumpReq := rfl
@[simp] theorem nextDraw_vfMirror : (s.nextDraw).vfMirror = s.vfMirror := rfl
@[simp] theorem nextDraw_draws : (s.nextDraw).draws = s.draws + 1 := rfl
@[simp] theorem nextDraw_getV (r : RegIdx) : (s.nextDraw).getV r = s.getV r := rfl

@[simp] theorem raiseFault_mem (f : Fault) : (raiseFault f s).mem = s.mem := rfl
@[simp] theorem raiseFault_v (f : Fault) : (raiseFault f s).v = s.v := rfl
@[simp] theorem raiseFault_stack (f : Fault) : (raiseFault f s).stack = s.stack := rfl
@[simp] theorem raiseFault_sp (f : Fault) : (raiseFault f s).sp = s.sp := rfl
@[simp] theorem raiseFault_pc (f : Fault) : (raiseFault f s).pc = s.pc := rfl
@[simp] theorem raiseFault_index (f : Fault) : (raiseFault f s).index = s.index := rfl
@[simp] theorem raiseFault_cf (f : Fault) : (raiseFault f s).cf = s.cf := rfl
@[simp] theorem raiseFault_runState (f : Fault) : (raiseFault f s).runState = .faulted := rfl
@[simp] theorem raiseFault_faultKind (f : Fault) : (raiseFault f s).faultKind = faultCode f := rfl
@[simp] theorem raiseFault_faultInfo (f : Fault) : (raiseFault f s).faultInfo = faultRecord f := rfl
@[simp] theorem raiseFault_dumpReq (f : Fault) : (raiseFault f s).dumpReq = s.dumpReq := rfl
@[simp] theorem raiseFault_vfMirror (f : Fault) : (raiseFault f s).vfMirror = s.vfMirror := rfl
@[simp] theorem raiseFault_draws (f : Fault) : (raiseFault f s).draws = s.draws := rfl
@[simp] theorem raiseFault_getV (f : Fault) (r : RegIdx) : (raiseFault f s).getV r = s.getV r := rfl

@[simp] theorem setFlag_mem (b : Bool) : (setFlag b s).mem = s.mem := by unfold setFlag; split <;> rfl
@[simp] theorem setFlag_stack (b : Bool) : (setFlag b s).stack = s.stack := by unfold setFlag; split <;> rfl
@[simp] theorem setFlag_sp (b : Bool) : (setFlag b s).sp = s.sp := by unfold setFlag; split <;> rfl
@[simp] theorem setFlag_pc (b : Bool) : (setFlag b s).pc = s.pc := by unfold setFlag; split <;> rfl
@[simp] theorem setFlag_index (b : Bool) : (setFlag b s).index = s.index := by unfold setFlag; split <;> rfl
@[simp] theorem setFlag_cf (b : Bool) : (setFlag b s).cf = b := by unfold setFlag; split <;> rfl
@[simp] theorem setFlag_runState (b : Bool) : (setFlag b s).runState = s.runState := by unfold setFlag; split <;> rfl
@[simp] theorem setFlag_faultKind (b : Bool) : (setFlag b s).faultKind = s.faultKind := by unfold setFlag; split <;> rfl
@[simp] theorem setFlag_faultInfo (b : Bool) : (setFlag b s).faultInfo = s.faultInfo := by unfold setFlag; split <;> rfl
@[simp] theorem setFlag_dumpReq (b : Bool) : (setFlag b s).dumpReq = s.dumpReq := by unfold setFlag; split <;> rfl
@[simp] theorem setFlag_vfMirror (b : Bool) : (setFlag b s).vfMirror = s.vfMirror := by unfold setFlag; split <;> rfl
@[simp] theorem setFlag_draws (b : Bool) : (setFlag b s).draws = s.draws := by unfold setFlag; split <;> rfl

@[simp] theorem writeResultAndFlag_mem (x : RegIdx) (r : Byte) (b : Bool) :
    (writeResultAndFlag x r b s).mem = s.mem := by simp [writeResultAndFlag]
@[simp] theorem writeResultAndFlag_stack (x : RegIdx) (r : Byte) (b : Bool) :
    (writeResultAndFlag x r b s).stack = s.stack := by simp [writeResultAndFlag]
@[simp] theorem writeResultAndFlag_sp (x : RegIdx) (r : Byte) (b : Bool) :
    (writeResultAndFlag x r b s).sp = s.sp := by simp [writeResultAndFlag]
@[simp] theorem writeResultAndFlag_pc (x : RegIdx) (r : Byte) (b : Bool) :
    (writeResultAndFlag x r b s).pc = s.pc := by simp [writeResultAndFlag]
@[simp] theorem writeResultAndFlag_index (x : RegIdx) (r : Byte) (b : Bool) :
    (writeResultAndFlag x r b s).index = s.index := by simp [writeResultAndFlag]
@[simp] theorem writeResultAndFlag_cf (x : RegIdx) (r : Byte) (b : Bool) :
    (writeResultAndFlag x r b s).cf = b := by simp [writeResultAndFlag]
@[simp] theorem writeResultAndFlag_runState (x : RegIdx) (r : Byte) (b : Bool) :
    (writeResultAndFlag x r b s).runState = s.runState := by simp [writeResultAndFlag]
@[simp] theorem writeResultAndFlag_faultKind (x : RegIdx) (r : Byte) (b : Bool) :
    (writeResultAndFlag x r b s).faultKind = s.faultKind := by simp [writeResultAndFlag]
@[simp] theorem writeResultAndFlag_faultInfo (x : RegIdx) (r : Byte) (b : Bool) :
    (writeResultAndFlag x r b s).faultInfo = s.faultInfo := by simp [writeResultAndFlag]
@[simp] theorem writeResultAndFlag_dumpReq (x : RegIdx) (r : Byte) (b : Bool) :
    (writeResultAndFlag x r b s).dumpReq = s.dumpReq := by simp [writeResultAndFlag]
@[simp] theorem writeResultAndFlag_vfMirror (x : RegIdx) (r : Byte) (b : Bool) :
    (writeResultAndFlag x r b s).vfMirror = s.vfMirror := by simp [writeResultAndFlag]
@[simp] theorem writeResultAndFlag_draws (x : RegIdx) (r : Byte) (b : Bool) :
    (writeResultAndFlag x r b s).draws = s.draws := by simp [writeResultAndFlag]

@[simp] theorem skipIf_mem (c : Bool) : (skipIf c s).mem = s.mem := by cases c <;> rfl
@[simp] theorem skipIf_v (c : Bool) : (skipIf c s).v = s.v := by cases c <;> rfl
@[simp] theorem skipIf_stack (c : Bool) : (skipIf c s).stack = s.stack := by cases c <;> rfl
@[simp] theorem skipIf_sp (c : Bool) : (skipIf c s).sp = s.sp := by cases c <;> rfl
@[simp] theorem skipIf_pc (c : Bool) : (skipIf c s).pc = if c then nextPc s.pc else s.pc := by cases c <;> rfl
@[simp] theorem skipIf_index (c : Bool) : (skipIf c s).index = s.index := by cases c <;> rfl
@[simp] theorem skipIf_cf (c : Bool) : (skipIf c s).cf = s.cf := by cases c <;> rfl
@[simp] theorem skipIf_runState (c : Bool) : (skipIf c s).runState = s.runState := by cases c <;> rfl
@[simp] theorem skipIf_faultKind (c : Bool) : (skipIf c s).faultKind = s.faultKind := by cases c <;> rfl
@[simp] theorem skipIf_faultInfo (c : Bool) : (skipIf c s).faultInfo = s.faultInfo := by cases c <;> rfl
@[simp] theorem skipIf_dumpReq (c : Bool) : (skipIf c s).dumpReq = s.dumpReq := by cases c <;> rfl
@[simp] theorem skipIf_vfMirror (c : Bool) : (skipIf c s).vfMirror = s.vfMirror := by cases c <;> rfl
@[simp] theorem skipIf_draws (c : Bool) : (skipIf c s).draws = s.draws := by cases c <;> rfl
@[simp] theorem skipIf_getV (c : Bool) (r : RegIdx) : (skipIf c s).getV r = s.getV r := by cases c <;> rfl

end Sys2Proof.Laws
end

