-- ==== Sys2Proof/Laws/Ops.lean ====
section
/-! SUPPORT. One lemma for each shared operation that says what it can answer. -/

namespace Sys2Proof.Laws

open Sys2Proof.Machine

@[simp] theorem getV_setV_same (s : State) (x : RegIdx) (b : Byte) : (s.setV x b).getV x = b := by
  simp [State.getV, State.setV]

theorem getV_setV_of_ne (s : State) {x r : RegIdx} (b : Byte) (h : r ≠ x) : (s.setV x b).getV r = s.getV r := by
  have hne : x.toNat ≠ r.toNat := fun e => h (BitVec.eq_of_toNat_eq e.symm)
  simp [State.getV, State.setV, hne]

/-- Reading any register after a write. -/
theorem getV_setV (s : State) (x r : RegIdx) (b : Byte) : (s.setV x b).getV r = if r = x then b else s.getV r := by
  split
  · subst r; simp
  · exact getV_setV_of_ne s b ‹_›

/-- Reading any register after the flag write (R129). -/
theorem getV_setFlag (s : State) (b : Bool) (r : RegIdx) :
    (setFlag b s).getV r = if s.vfMirror = true ∧ r = 15#4 then flagByte b else s.getV r := by
  unfold setFlag
  split
  · rw [getV_setV]; simp_all
  · simp_all

/-- Reading any register after a result and a flag (R129, D2). -/
theorem getV_writeResultAndFlag (s : State) (x : RegIdx) (res : Byte) (b : Bool) (r : RegIdx) :
    (writeResultAndFlag x res b s).getV r =
      if s.vfMirror = true ∧ r = 15#4 then flagByte b else if r = x then res else s.getV r := by
  unfold writeResultAndFlag
  rw [getV_setFlag, getV_setV, setV_vfMirror]

/-- An instruction's end is always a next state: its own, or FAULTED from the state before it. -/
theorem completeOrRaise_next {s t : State} {r : Except Fault State} (h : completeOrRaise s r = .next t) :
    r = .ok t ∨ ∃ f, r = .error f ∧ t = raiseFault f s := by
  cases r with
  | ok u => cases h; exact .inl rfl
  | error f => cases h; exact .inr ⟨f, rfl, rfl⟩

/-- What a byte read can answer (R41). -/
theorem memRead_cases (addr : Word) (s : State) :
    (addr.toNat < Config.memSize ∧ memRead addr s = .ok (s.mem.read addr.toNat)) ∨
    (Config.memSize ≤ addr.toNat ∧ memRead addr s = .error (.outOfRangeMemory addr)) := by
  unfold memRead
  split
  · exact .inr ⟨‹_›, rfl⟩
  · exact .inl ⟨by omega, rfl⟩

/-- A fetch that answers a word read two bytes of memory. -/
theorem fetchWord_ok_inside {s : State} {w : Word} (h : fetchWord s = .ok w) : s.pc.toNat + 1 < Config.memSize := by
  unfold fetchWord at h
  rcases memRead_cases s.pc s with ⟨h1, e1⟩ | ⟨h1, e1⟩
  · rcases memRead_cases (s.pc + 1#16) s with ⟨h2, e2⟩ | ⟨h2, e2⟩
    · have hm : Config.memSize = 4096 := rfl
      have : (s.pc + 1#16).toNat = s.pc.toNat + 1 := by
        rw [BitVec.toNat_add]; simp; omega
      omega
    · simp [e1, e2] at h
  · simp [e1] at h

/-- A fetch inside memory that fails is the one at 4095, and reports address 4096 (R82, R151). -/
theorem fetchWord_error {s : State} {f : Fault} (hpc : s.pc.toNat < Config.memSize) (h : fetchWord s = .error f) :
    s.pc = 0x0FFF#16 ∧ f = .outOfRangeMemory 0x1000#16 := by
  have hm : Config.memSize = 4096 := rfl
  have hs : (s.pc + 1#16).toNat = s.pc.toNat + 1 := by
    rw [BitVec.toNat_add]; simp; omega
  unfold fetchWord at h
  rcases memRead_cases s.pc s with ⟨h1, e1⟩ | ⟨h1, e1⟩
  · rcases memRead_cases (s.pc + 1#16) s with ⟨h2, e2⟩ | ⟨h2, e2⟩
    · simp [e1, e2] at h
    · have hp : s.pc = 0x0FFF#16 := BitVec.eq_of_toNat_eq (by simp; omega)
      simp [e1, e2] at h
      refine ⟨hp, ?_⟩
      rw [← h, hp]
      rfl
  · omega

/-- A push with room: the entry at the old stack pointer, which goes up by one; nothing else (R28). -/
theorem push_of_lt (w : Word) {s : State} (h : s.sp.val < 16) :
    push w s = .ok { s with stack := s.stack.set s.sp.val w h, sp := ⟨s.sp.val + 1, Nat.succ_lt_succ h⟩ } := by
  unfold push; rw [dif_pos h]

/-- A push with no room (R28). -/
theorem push_of_full (w : Word) {s : State} (h : s.sp.val = 16) : push w s = .error .stackOverflow := by
  unfold push; rw [dif_neg (by omega)]

/-- A pop with an entry: the entry below the old stack pointer, which goes down by one; nothing else (R29). -/
theorem pop_of_pos {s : State} (h : 0 < s.sp.val) (hj : s.sp.val - 1 < 16) :
    pop s = .ok (s.stack[s.sp.val - 1]'hj, { s with sp := ⟨s.sp.val - 1, by omega⟩ }) := by
  unfold pop; rw [if_pos h]

/-- A pop with no entry (R29). -/
theorem pop_of_empty {s : State} (h : s.sp.val = 0) : pop s = .error .stackUnderflow := by
  unfold pop; rw [if_neg (by omega)]

end Sys2Proof.Laws
end

