-- ==== Sys2Proof/Laws/PerInstr.lean ====
section
/-! SUPPORT. Facts about every instruction as syntax, one lemma per constructor. -/

namespace Sys2Proof.Laws.Encoding

/-- The row of an instruction stands in the opcode table and accepts the word of the instruction (R64, R73). -/
def Statement (i : Instr) : Prop := i.wellFormed = true ∧ i.row.accepts (encode i) = true

/-- A row with the mask `F000` accepts every word with its `op`. -/
theorem accepts_nnn (p : Nibble) (nnn : Addr) {pat : Word} (h : (p ++ 0x000#12 : BitVec (4 + 12)) = pat) :
    OpRow.accepts ⟨0xF000#16, pat⟩ (p ++ nnn) = true := by
  rw [OpRow.accepts, beq_iff_eq, ← h]; exact mask_nnn p nnn

/-- The same, for a word of the shape op, x, kk. -/
theorem accepts_xkk_F000 (p : Nibble) (x : RegIdx) (kk : Byte) {pat : Word} (h : (p ++ 0x000#12 : BitVec (4 + 12)) = pat) :
    OpRow.accepts ⟨0xF000#16, pat⟩ (p ++ x ++ kk) = true := by
  have e : BitVec.toNat (w := 16) (p ++ x ++ kk) = BitVec.toNat (w := 16) (p ++ (x ++ kk : Addr)) := by
    have h2 : BitVec.toNat (w := 12) (x ++ kk) = x.toNat * 256 + kk.toNat := toNat_append_pieces x kk
    rw [xkk_toNat, nnn_toNat, h2]; omega
  have e' := BitVec.eq_of_toNat_eq e
  rw [e']; exact accepts_nnn p _ h

/-- The same, for a word of the shape op, x, y, n. -/
theorem accepts_xyn_F000 (p : Nibble) (x y : RegIdx) (n : Nibble) {pat : Word}
    (h : (p ++ 0x000#12 : BitVec (4 + 12)) = pat) : OpRow.accepts ⟨0xF000#16, pat⟩ (p ++ x ++ y ++ n) = true := by
  have e : BitVec.toNat (w := 16) (p ++ x ++ y ++ n) = BitVec.toNat (w := 16) (p ++ x ++ (y ++ n : Byte)) := by
    have h2 : BitVec.toNat (w := 8) (y ++ n) = y.toNat * 16 + n.toNat := toNat_append_pieces y n
    rw [xkk_toNat, xyn_toNat, h2]; omega
  have e' := BitVec.eq_of_toNat_eq e
  rw [e']; exact accepts_xkk_F000 p x _ h

/-- A row with the mask `F0FF` accepts every word with its `op` and `kk`. -/
theorem accepts_xkk (p : Nibble) (x : RegIdx) (kk : Byte) {pat : Word}
    (h : (p ++ 0x0#4 ++ kk : BitVec (4 + 4 + 8)) = pat) : OpRow.accepts ⟨0xF0FF#16, pat⟩ (p ++ x ++ kk) = true := by
  rw [OpRow.accepts, beq_iff_eq, ← h]; exact mask_xkk p x kk

/-- A row with the mask `F00F` accepts every word with its `op` and `n`. -/
theorem accepts_xyn (p : Nibble) (x y : RegIdx) (n : Nibble) {pat : Word}
    (h : (p ++ 0x0#4 ++ 0x0#4 ++ n : BitVec (4 + 4 + 4 + 4)) = pat) :
    OpRow.accepts ⟨0xF00F#16, pat⟩ (p ++ x ++ y ++ n) = true := by
  rw [OpRow.accepts, beq_iff_eq, ← h]; exact mask_xyn p x y n

theorem cls : Statement .cls := ⟨rfl, rfl⟩
theorem ret : Statement .ret := ⟨rfl, rfl⟩
theorem dump : Statement .dump := ⟨rfl, rfl⟩
theorem jp (nnn : Addr) : Statement (.jp nnn) := ⟨rfl, accepts_nnn _ nnn rfl⟩
theorem call (nnn : Addr) : Statement (.call nnn) := ⟨rfl, accepts_nnn _ nnn rfl⟩
theorem seImm (x : RegIdx) (kk : Byte) : Statement (.seImm x kk) := ⟨rfl, accepts_xkk_F000 _ x kk rfl⟩
theorem sneImm (x : RegIdx) (kk : Byte) : Statement (.sneImm x kk) := ⟨rfl, accepts_xkk_F000 _ x kk rfl⟩
theorem seReg (x y : RegIdx) : Statement (.seReg x y) := ⟨rfl, accepts_xyn _ x y _ rfl⟩
theorem ldImm (x : RegIdx) (kk : Byte) : Statement (.ldImm x kk) := ⟨rfl, accepts_xkk_F000 _ x kk rfl⟩
theorem addImm (x : RegIdx) (kk : Byte) : Statement (.addImm x kk) := ⟨rfl, accepts_xkk_F000 _ x kk rfl⟩
theorem ldReg (x y : RegIdx) : Statement (.ldReg x y) := ⟨rfl, accepts_xyn _ x y _ rfl⟩
theorem orReg (x y : RegIdx) : Statement (.orReg x y) := ⟨rfl, accepts_xyn _ x y _ rfl⟩
theorem andReg (x y : RegIdx) : Statement (.andReg x y) := ⟨rfl, accepts_xyn _ x y _ rfl⟩
theorem xorReg (x y : RegIdx) : Statement (.xorReg x y) := ⟨rfl, accepts_xyn _ x y _ rfl⟩
theorem addReg (x y : RegIdx) : Statement (.addReg x y) := ⟨rfl, accepts_xyn _ x y _ rfl⟩
theorem subReg (x y : RegIdx) : Statement (.subReg x y) := ⟨rfl, accepts_xyn _ x y _ rfl⟩
theorem shr (x y : RegIdx) : Statement (.shr x y) := ⟨rfl, accepts_xyn _ x y _ rfl⟩
theorem subn (x y : RegIdx) : Statement (.subn x y) := ⟨rfl, accepts_xyn _ x y _ rfl⟩
theorem shl (x y : RegIdx) : Statement (.shl x y) := ⟨rfl, accepts_xyn _ x y _ rfl⟩
theorem sneReg (x y : RegIdx) : Statement (.sneReg x y) := ⟨rfl, accepts_xyn _ x y _ rfl⟩
theorem ldI (nnn : Addr) : Statement (.ldI nnn) := ⟨rfl, accepts_nnn _ nnn rfl⟩
theorem jpV0 (nnn : Addr) : Statement (.jpV0 nnn) := ⟨rfl, accepts_nnn _ nnn rfl⟩
theorem rnd (x : RegIdx) (kk : Byte) : Statement (.rnd x kk) := ⟨rfl, accepts_xkk_F000 _ x kk rfl⟩
theorem drw (x y : RegIdx) (n : Nibble) : Statement (.drw x y n) := ⟨rfl, accepts_xyn_F000 _ x y n rfl⟩
theorem skp (x : RegIdx) : Statement (.skp x) := ⟨rfl, accepts_xkk _ x _ rfl⟩
theorem sknp (x : RegIdx) : Statement (.sknp x) := ⟨rfl, accepts_xkk _ x _ rfl⟩
theorem fxxx (nnn : Addr) : Statement (.fxxx nnn) := ⟨rfl, accepts_nnn _ nnn rfl⟩

end Sys2Proof.Laws.Encoding
end

