-- ==== Sys2Proof/Laws/Step.lean ====
section
/-! SUPPORT. What a step can do, said once, and what each instruction answers in terms of the shared operations. -/

namespace Sys2Proof.Laws

open Sys2Proof.Machine

/-! ### The step -/

theorem step_executing {s : State} (h : s.runState = .executing) : step s = runLoopPass s.clearDump := by
  unfold step cycle; rw [h]

theorem step_not_executing {s : State} (h : s.runState ≠ .executing) : step s = .next s := by
  unfold step cycle; cases hr : s.runState <;> simp_all

/-- Dispatch of a word runs its instruction or raises UnknownOpcode. -/
theorem dispatchWord_cases (w : Word) (s : State) :
    (∃ i, decodeWord w = .ok i ∧ dispatchWord w s = exec i s) ∨
    (∃ e, decodeWord w = .error e ∧ dispatchWord w s = .next (raiseFault (.unknownOpcode w) s)) := by
  unfold dispatchWord
  cases h : decodeWord w with
  | ok i => exact .inl ⟨i, rfl, rfl⟩
  | error e => exact .inr ⟨e, rfl, rfl⟩

/-- The four things one pass of the run loop can be: the normal halt, the fetch fault at 4095, an unknown word, and an
instruction run from `pc + 2`. -/
theorem runLoopPass_cases (s : State) :
    (Config.memSize ≤ s.pc.toNat ∧ runLoopPass s = .next s.halt) ∨
    (s.pc = 0x0FFF#16 ∧ runLoopPass s = .next (raiseFault (.outOfRangeMemory 0x1000#16) s)) ∨
    (∃ w e, s.pc.toNat + 1 < Config.memSize ∧ fetchWord s = .ok w ∧ decodeWord w = .error e ∧
      runLoopPass s = .next (raiseFault (.unknownOpcode w) (s.setPc (nextPc s.pc)))) ∨
    (∃ w i, s.pc.toNat + 1 < Config.memSize ∧ fetchWord s = .ok w ∧ decodeWord w = .ok i ∧
      runLoopPass s = exec i (s.setPc (nextPc s.pc))) := by
  unfold runLoopPass
  split
  · exact .inl ⟨‹_›, rfl⟩
  · cases hf : fetchWord s with
    | error f =>
      obtain ⟨hp, rfl⟩ := fetchWord_error (by omega) hf
      exact .inr (.inl ⟨hp, rfl⟩)
    | ok w =>
      have hin := fetchWord_ok_inside hf
      rcases dispatchWord_cases w (s.setPc (nextPc s.pc)) with ⟨i, hi, he⟩ | ⟨e, hi, he⟩
      · exact .inr (.inr (.inr ⟨w, i, hin, rfl, hi, he⟩))
      · exact .inr (.inr (.inl ⟨w, e, hin, rfl, hi, he⟩))

/-! ### The instructions, over the shared operations -/

section
variable (s : State)

theorem exec_cls : exec .cls s = .next (raiseUnimplemented .cls s) := rfl
theorem exec_dump : exec .dump s = .next s.assertDump := rfl
theorem exec_jp (nnn : Addr) : exec (.jp nnn) s =
    .next (s.setPc (if addrOperand nnn = s.pcFetch then 0x1000#16 else addrOperand nnn)) := rfl
theorem exec_seImm (x : RegIdx) (kk : Byte) : exec (.seImm x kk) s = .next (skipIf (s.getV x == kk) s) := rfl
theorem exec_sneImm (x : RegIdx) (kk : Byte) : exec (.sneImm x kk) s = .next (skipIf (s.getV x != kk) s) := rfl
theorem exec_seReg (x y : RegIdx) : exec (.seReg x y) s = .next (skipIf (s.getV x == s.getV y) s) := rfl
theorem exec_sneReg (x y : RegIdx) : exec (.sneReg x y) s = .next (skipIf (s.getV x != s.getV y) s) := rfl
theorem exec_ldImm (x : RegIdx) (kk : Byte) : exec (.ldImm x kk) s = .next (s.setV x kk) := rfl
theorem exec_addImm (x : RegIdx) (kk : Byte) : exec (.addImm x kk) s = .next (s.setV x (s.getV x + kk)) := rfl
theorem exec_ldReg (x y : RegIdx) : exec (.ldReg x y) s = .next (s.setV x (s.getV y)) := rfl
theorem exec_orReg (x y : RegIdx) : exec (.orReg x y) s = .next (s.setV x (s.getV x ||| s.getV y)) := rfl
theorem exec_andReg (x y : RegIdx) : exec (.andReg x y) s = .next (s.setV x (s.getV x &&& s.getV y)) := rfl
theorem exec_xorReg (x y : RegIdx) : exec (.xorReg x y) s = .next (s.setV x (s.getV x ^^^ s.getV y)) := rfl
theorem exec_addReg (x y : RegIdx) : exec (.addReg x y) s =
    .next (writeResultAndFlag x (addResult (s.getV x) (s.getV y)) (addFlag (s.getV x) (s.getV y)) s) := rfl
theorem exec_subReg (x y : RegIdx) : exec (.subReg x y) s =
    .next (writeResultAndFlag x (subResult (s.getV x) (s.getV y)) (subFlag (s.getV x) (s.getV y)) s) := rfl
theorem exec_shr (x y : RegIdx) : exec (.shr x y) s =
    .next (writeResultAndFlag x (shrResult (s.getV x)) (shrFlag (s.getV x)) s) := rfl
theorem exec_subn (x y : RegIdx) : exec (.subn x y) s =
    .next (writeResultAndFlag x (subResult (s.getV y) (s.getV x)) (subFlag (s.getV y) (s.getV x)) s) := rfl
theorem exec_shl (x y : RegIdx) : exec (.shl x y) s =
    .next (writeResultAndFlag x (shlResult (s.getV x)) (shlFlag (s.getV x)) s) := rfl
theorem exec_ldI (nnn : Addr) : exec (.ldI nnn) s = .next (s.setIndex (addrOperand nnn)) := rfl
theorem exec_jpV0 (nnn : Addr) : exec (.jpV0 nnn) s = .next (s.setPc (indexedTarget nnn s)) := rfl
theorem exec_rnd (x : RegIdx) (kk : Byte) : exec (.rnd x kk) s = .next ((s.setV x (s.rndByte &&& kk)).nextDraw) := rfl
theorem exec_drw (x y : RegIdx) (n : Nibble) : exec (.drw x y n) s = .next (raiseUnimplemented (.drw x y n) s) := rfl
theorem exec_skp (x : RegIdx) : exec (.skp x) s = .next (raiseUnimplemented (.skp x) s) := rfl
theorem exec_sknp (x : RegIdx) : exec (.sknp x) s = .next (raiseUnimplemented (.sknp x) s) := rfl
theorem exec_fxxx (nnn : Addr) : exec (.fxxx nnn) s = .next (raiseUnimplemented (.fxxx nnn) s) := rfl

/-- `RET` with an entry on the stack (R90). -/
theorem exec_ret_of_pos {s : State} (h : 0 < s.sp.val) (hj : s.sp.val - 1 < 16) :
    exec .ret s = .next { s with sp := ⟨s.sp.val - 1, by omega⟩, pc := s.stack[s.sp.val - 1]'hj } := by
  show completeOrRaise s ((pop s).map _) = _
  rw [pop_of_pos h hj]; rfl

/-- `RET` with an empty stack (R90). -/
theorem exec_ret_of_empty {s : State} (h : s.sp.val = 0) : exec .ret s = .next (raiseFault .stackUnderflow s) := by
  show completeOrRaise s ((pop s).map _) = _
  rw [pop_of_empty h]; rfl

/-- `CALL` with room on the stack (R92). -/
theorem exec_call_of_lt (nnn : Addr) {s : State} (h : s.sp.val < 16) :
    exec (.call nnn) s = .next { s with
      stack := s.stack.set s.sp.val s.pc h, sp := ⟨s.sp.val + 1, Nat.succ_lt_succ h⟩, pc := addrOperand nnn } := by
  show completeOrRaise s ((push s.pc s).map _) = _
  rw [push_of_lt s.pc h]; rfl

/-- `CALL` with a full stack (R92). -/
theorem exec_call_of_full (nnn : Addr) {s : State} (h : s.sp.val = 16) :
    exec (.call nnn) s = .next (raiseFault .stackOverflow s) := by
  show completeOrRaise s ((push s.pc s).map _) = _
  rw [push_of_full s.pc h]; rfl

end

end Sys2Proof.Laws
end

