-- ==== Sys2Proof/Tests/Slice0.lean ====
section
/-! SUPPORT. The model's own tests. Every expected value is one of spec/95_test_vectors.md (the vector's name stands in the
theorem's name or comment) or of the rule named; and a witness for every statement with hypotheses. -/

namespace Sys2Proof.Tests

open Sys2Proof.Machine Sys2Proof.Safety

/-! ### Small states -/

/-- An EXECUTING core with one word at `a` and `pc` there, on top of a state. -/
def wordAt (w : Word) (a : Nat) (s : State) : State :=
  { placeWord a w s with pc := BitVec.ofNat 16 a, runState := .executing }

/-- The state after reset with some registers set. -/
def withRegs (l : List (RegIdx × Byte)) : State := l.foldl (fun s p => s.setV p.1 p.2) State.reset

/-- The state after one step has a property. -/
def afterStep (s : State) (p : State → Bool) : Bool :=
  match step s with
  | .next t => p t
  | .fault _ => false
  | .refused _ => false

/-- The core has faulted with a kind and an info, at a `pc`. -/
def faultedWith (kind : BitVec 3) (info pc : Word) (t : State) : Bool :=
  t.runState == .faulted && t.faultKind == kind && t.faultInfo == info && t.pc == pc

/-! ### Well-formedness -/

/-- Each class of unknown words of R70 is refused, and its neighbours in the table are accepted. -/
theorem test_wordWellFormed_refuses_unknown :
    (wordWellFormed 0x0000#16, wordWellFormed 0x5001#16, wordWellFormed 0x8128#16, wordWellFormed 0x900F#16,
      wordWellFormed 0xE300#16, wordWellFormed 0x00EE#16, wordWellFormed 0x812E#16) =
    (false, false, false, false, false, true, true) := by decide

/-- A row that is not of the table is not contained in it, so an instruction with that row would be ill formed. -/
theorem test_opRows_refuses_foreign_row :
    opRows.contains ⟨0xF00F#16, 0x8008#16⟩ = false ∧ (Instr.shl 1#4 2#4).wellFormed = true := by decide

/-- The loader's check (R182): 3584 bytes fit, 3585 do not. -/
theorem test_imageWellFormed_refuses_oversize :
    imageWellFormed (List.replicate 3584 0x00#8) = true ∧ imageWellFormed (List.replicate 3585 0x00#8) = false := by
  unfold imageWellFormed Config.imageMax
  rw [List.length_replicate, List.length_replicate]
  decide

/-- A list that is not canonical is no memory: a zero cell, an address out of order, an address outside memory. -/
theorem test_memory_wf_refuses :
    (Memory.wf [(5, 0x00#8)], Memory.wf [(5, 0x01#8), (5, 0x02#8)], Memory.wf [(4096, 0x01#8)], Memory.wf [(5, 0x01#8)]) =
    (false, false, false, true) := by decide

/-! ### Decoding: words written out bit by bit from 30_encoding.md -/

theorem test_decode_control :
    decodeWord 0b0000000011101110#16 = .ok .ret ∧ decodeWord 0b0001001000001100#16 = .ok (.jp 0x20C#12) ∧
    decodeWord 0b0010001100000000#16 = .ok (.call 0x300#12) ∧ decodeWord 0b1011001000000100#16 = .ok (.jpV0 0x204#12) := by
  decide

theorem test_decode_skip :
    decodeWord 0b0011001100000101#16 = .ok (.seImm 3#4 5#8) ∧ decodeWord 0b0100001100000111#16 = .ok (.sneImm 3#4 7#8) ∧
    decodeWord 0b0101000100100000#16 = .ok (.seReg 1#4 2#4) ∧ decodeWord 0b1001000100100000#16 = .ok (.sneReg 1#4 2#4) := by
  decide

theorem test_decode_immediate :
    decodeWord 0b0110111110101011#16 = .ok (.ldImm 15#4 0xAB#8) ∧ decodeWord 0b0111000111111111#16 = .ok (.addImm 1#4 0xFF#8) ∧
    decodeWord 0b1010000100100011#16 = .ok (.ldI 0x123#12) ∧ decodeWord 0b1100001100001111#16 = .ok (.rnd 3#4 0x0F#8) := by
  decide

theorem test_decode_alu :
    decodeWord 0b1000000100100000#16 = .ok (.ldReg 1#4 2#4) ∧ decodeWord 0b1000000100100001#16 = .ok (.orReg 1#4 2#4) ∧
    decodeWord 0b1000000100100010#16 = .ok (.andReg 1#4 2#4) ∧ decodeWord 0b1000000100100011#16 = .ok (.xorReg 1#4 2#4) ∧
    decodeWord 0b1000101010110100#16 = .ok (.addReg 10#4 11#4) ∧ decodeWord 0b1000000100100101#16 = .ok (.subReg 1#4 2#4) ∧
    decodeWord 0b1000000111110110#16 = .ok (.shr 1#4 15#4) ∧ decodeWord 0b1000000100100111#16 = .ok (.subn 1#4 2#4) ∧
    decodeWord 0b1000000100101110#16 = .ok (.shl 1#4 2#4) := by decide

theorem test_decode_debug :
    decodeWord 0b0000111111111111#16 = .ok .dump ∧ decodeWord 0b0000000011100000#16 = .ok .cls ∧
    decodeWord 0b1101000100100101#16 = .ok (.drw 1#4 2#4 5#4) ∧ decodeWord 0b1110001110011110#16 = .ok (.skp 3#4) ∧
    decodeWord 0b1110001110100001#16 = .ok (.sknp 3#4) ∧ decodeWord 0b1111001000000111#16 = .ok (.fxxx 0x207#12) := by decide

/-- C4: `012E` is no return, and is rejected by name. -/
theorem test_decode_rejects_by_name :
    decodeWord 0x012E#16 = .error (.unknownOpcode 0x012E#16) ∧ decode [0x60#8] = .error .truncated ∧
    decode [0x60#8, 0xFF#8, 0x12#8] = .ok (.ldImm 0#4 0xFF#8, [0x12#8]) := by decide

theorem test_decodeTableWord : decodeTableWord 16 0x8AB4 = some (.addReg 10#4 11#4) ∧ decodeTableWord 16 0x8AB8 = none := by
  decide

/-! ### The execution cycle -/

theorem test_V_CYC_2_odd_pc : afterStep (wordAt 0x6177#16 0x201 State.reset) (fun t => t.getV 1#4 == 0x77#8 && t.pc == 0x203#16) = true := by
  decide
theorem test_V_CYC_4_halts :
    afterStep { State.reset with pc := 0x10FE#16, runState := .executing } (fun t => t.runState == .halted && t.pc == 0x10FE#16) = true := by
  decide
theorem test_V_CYC_5_fetch_fault :
    afterStep { State.reset with pc := 0x0FFF#16, runState := .executing } (faultedWith 1#3 0x1000#16 0x0FFF#16) = true := by decide
theorem test_V_CYC_7_no_load : afterStep (startCore State.reset) (faultedWith 6#3 0x0000#16 0x0002#16) = true := by decide
theorem test_V_CYC_8_idle : step State.reset = .next State.reset := rfl
theorem test_V_UNK_7 : afterStep (wordAt 0x812F#16 0x200 State.reset) (faultedWith 6#3 0x812F#16 0x0202#16) = true := by decide
theorem test_withFetchWord_runs : afterStep (State.reset.withFetchWord 16 0x6FAB) (fun t => t.getV 15#4 == 0xAB#8) = true := by
  decide

/-! ### One step per vector -/

theorem test_V_JP_2_self : afterStep (wordAt 0x120C#16 0x20C State.reset) (fun t => t.pc == 0x1000#16 && t.runState == .executing) = true := by
  decide
theorem test_V_JP_7_next : afterStep (wordAt 0x1202#16 0x200 State.reset) (fun t => t.pc == 0x0202#16) = true := by decide
theorem test_V_CALL_2 :
    afterStep (wordAt 0x2300#16 0x200 { State.reset with sp := 15 })
      (fun t => t.stack[15] == 0x0202#16 && t.sp == 16 && t.pc == 0x0300#16) = true := by decide
theorem test_V_CALL_3_overflow :
    afterStep (wordAt 0x2300#16 0x200 { State.reset with sp := 16 })
      (fun t => faultedWith 3#3 0x0000#16 0x0202#16 t && t.sp == 16 && t.stack == State.reset.stack) = true := by decide
theorem test_V_RET_4 :
    afterStep (wordAt 0x00EE#16 0x300 { State.reset with sp := 2, stack := (State.reset.stack.set 0 0x0202#16).set 1 0x0405#16 })
      (fun t => t.pc == 0x0405#16 && t.sp == 1 && t.stack[1] == 0x0405#16) = true := by decide
theorem test_V_RET_2_underflow : afterStep (wordAt 0x00EE#16 0x300 State.reset) (faultedWith 4#3 0x0000#16 0x0302#16) = true := by decide
theorem test_V_JPV0_3 : afterStep (wordAt 0xBFFF#16 0x200 (withRegs [(0#4, 0xFF#8)])) (fun t => t.pc == 0x10FE#16) = true := by decide
theorem test_V_JPV0_5_no_self_halt : afterStep (wordAt 0xB200#16 0x200 State.reset) (fun t => t.pc == 0x0200#16) = true := by decide
theorem test_V_SE_3 : afterStep (wordAt 0x3F00#16 0xFFE State.reset) (fun t => t.pc == 0x1002#16) = true := by decide
theorem test_V_SE_2 : afterStep (wordAt 0x3305#16 0x200 (withRegs [(3#4, 0x06#8)])) (fun t => t.pc == 0x0202#16) = true := by decide
theorem test_V_SNE_1 : afterStep (wordAt 0x4300#16 0x20A (withRegs [(3#4, 0x07#8)])) (fun t => t.pc == 0x020E#16) = true := by decide
theorem test_V_SNE_2 : afterStep (wordAt 0x4300#16 0x20A State.reset) (fun t => t.pc == 0x020C#16) = true := by decide
theorem test_V_SER_2 : afterStep (wordAt 0x5120#16 0x300 (withRegs [(1#4, 0x2A#8), (2#4, 0x2B#8)])) (fun t => t.pc == 0x0302#16) = true := by
  decide
theorem test_V_SER_3 : afterStep (wordAt 0x5110#16 0x300 (withRegs [(1#4, 0x09#8)])) (fun t => t.pc == 0x0304#16) = true := by decide
theorem test_V_SNER_1 : afterStep (wordAt 0x9120#16 0x300 (withRegs [(1#4, 0x2A#8), (2#4, 0x2B#8)])) (fun t => t.pc == 0x0304#16) = true := by
  decide
theorem test_V_SNER_3 : afterStep (wordAt 0x9110#16 0x300 (withRegs [(1#4, 0x09#8)])) (fun t => t.pc == 0x0302#16) = true := by decide
theorem test_V_LDI_2 : afterStep (wordAt 0x6700#16 0x200 (withRegs [(7#4, 0xFF#8)])) (fun t => t.getV 7#4 == 0x00#8) = true := by decide
theorem test_V_ADDI_1 : afterStep (wordAt 0x7101#16 0x200 (withRegs [(1#4, 0xFF#8)])) (fun t => t.getV 1#4 == 0x00#8 && !t.cf) = true := by
  decide
theorem test_V_ADDI_4_mirror :
    afterStep (wordAt 0x71FF#16 0x200 { withRegs [(1#4, 0xFF#8), (15#4, 0x77#8)] with vfMirror := true })
      (fun t => t.getV 1#4 == 0xFE#8 && t.getV 15#4 == 0x77#8 && !t.cf) = true := by decide
theorem test_V_LDIX_2 : afterStep (wordAt 0xAFFF#16 0x200 State.reset) (fun t => t.index == 0x0FFF#16) = true := by decide
/-- V-RND-5: the masked draw, whatever it is. -/
theorem test_V_RND_5 : afterStep (wordAt 0xC30F#16 0x200 State.reset) (fun t => t.pc == 0x0202#16 && t.draws == 1) = true := by decide
/-- V-RND-2: under the mask 0 the draw does not matter. -/
theorem test_V_RND_2 (s : State) : exec (.rnd 3#4 0x00#8) s = .next ((s.setV 3#4 0x00#8).nextDraw) := by
  rw [Laws.exec_rnd, BitVec.and_zero]
theorem test_V_LD_1 :
    afterStep (wordAt 0x8120#16 0x200 ((withRegs [(1#4, 0x11#8), (2#4, 0x5A#8)]).setCf true))
      (fun t => t.getV 1#4 == 0x5A#8 && t.getV 2#4 == 0x5A#8 && t.cf) = true := by decide
theorem test_V_OR_1 :
    afterStep (wordAt 0x8121#16 0x200 ((withRegs [(1#4, 0xF0#8), (2#4, 0x3C#8)]).setCf true)) (fun t => t.getV 1#4 == 0xFC#8 && t.cf) = true := by
  decide
theorem test_V_MIR_7 :
    afterStep (wordAt 0x8121#16 0x200 { withRegs [(1#4, 0x01#8), (2#4, 0x02#8), (15#4, 0x77#8)] with vfMirror := true, cf := true })
      (fun t => t.getV 1#4 == 0x03#8 && t.getV 15#4 == 0x77#8 && t.cf) = true := by decide
theorem test_V_AND_1 :
    afterStep (wordAt 0x8122#16 0x200 ((withRegs [(1#4, 0xF0#8), (2#4, 0x3C#8)]).setCf true)) (fun t => t.getV 1#4 == 0x30#8 && t.cf) = true := by
  decide
theorem test_V_XOR_1 :
    afterStep (wordAt 0x8123#16 0x200 ((withRegs [(1#4, 0xF0#8), (2#4, 0x3C#8)]).setCf true)) (fun t => t.getV 1#4 == 0xCC#8 && t.cf) = true := by
  decide
theorem test_V_ADD_2 :
    afterStep (wordAt 0x8124#16 0x200 ((withRegs [(1#4, 0x7F#8), (2#4, 0x80#8)]).setCf true)) (fun t => t.getV 1#4 == 0xFF#8 && !t.cf) = true := by
  decide
theorem test_V_MIR_2 :
    afterStep (wordAt 0x8F14#16 0x200 { withRegs [(15#4, 0xFF#8), (1#4, 0x01#8)] with vfMirror := true })
      (fun t => t.getV 15#4 == 0x01#8 && t.cf) = true := by decide
theorem test_V_SUB_3_equal :
    afterStep (wordAt 0x8125#16 0x200 ((withRegs [(1#4, 0x07#8), (2#4, 0x07#8)]).setCf true)) (fun t => t.getV 1#4 == 0x00#8 && !t.cf) = true := by
  decide
theorem test_V_MIR_5 :
    afterStep (wordAt 0x81F5#16 0x200 { withRegs [(1#4, 0x05#8), (15#4, 0x03#8)] with vfMirror := true })
      (fun t => t.getV 1#4 == 0x02#8 && t.getV 15#4 == 0x01#8 && t.cf) = true := by decide
theorem test_V_SHR_4 :
    afterStep (wordAt 0x81F6#16 0x200 (withRegs [(1#4, 0xFF#8), (15#4, 0x55#8)]))
      (fun t => t.getV 1#4 == 0x7F#8 && t.getV 15#4 == 0x55#8 && t.cf) = true := by decide
theorem test_V_SUBN_2 :
    afterStep (wordAt 0x8127#16 0x200 ((withRegs [(1#4, 0x05#8), (2#4, 0x03#8)]).setCf true)) (fun t => t.getV 1#4 == 0xFE#8 && !t.cf) = true := by
  decide
theorem test_V_SUBN_3_equal :
    afterStep (wordAt 0x8127#16 0x200 ((withRegs [(1#4, 0x07#8), (2#4, 0x07#8)]).setCf true)) (fun t => t.getV 1#4 == 0x00#8 && !t.cf) = true := by
  decide
theorem test_V_SHL_1 :
    afterStep (wordAt 0x812E#16 0x200 (withRegs [(1#4, 0x81#8), (2#4, 0xFF#8)])) (fun t => t.getV 1#4 == 0x02#8 && t.cf) = true := by decide
theorem test_V_MIR_6 :
    afterStep (wordAt 0x8F0E#16 0x200 { withRegs [(15#4, 0x81#8)] with vfMirror := true }) (fun t => t.getV 15#4 == 0x01#8 && t.cf) = true := by
  decide
theorem test_V_DUMP_1 :
    afterStep (wordAt 0x0FFF#16 0x202 ((withRegs [(1#4, 0x07#8)]).setCf true))
      (fun t => t.pc == 0x0204#16 && t.dumpReq && t.getV 1#4 == 0x07#8 && t.cf && t.runState == .executing) = true := by decide
theorem test_V_UNIMP_1 : afterStep (wordAt 0x00E0#16 0x200 State.reset) (faultedWith 5#3 0x00E0#16 0x0202#16) = true := by decide
theorem test_V_UNIMP_2 : afterStep (wordAt 0xD125#16 0x200 State.reset) (faultedWith 5#3 0xD125#16 0x0202#16) = true := by decide
theorem test_V_UNIMP_3 : afterStep (wordAt 0xE39E#16 0x200 State.reset) (faultedWith 5#3 0xE39E#16 0x0202#16) = true := by decide
theorem test_V_UNIMP_4 : afterStep (wordAt 0xE3A1#16 0x200 State.reset) (faultedWith 5#3 0xE3A1#16 0x0202#16) = true := by decide
theorem test_V_UNIMP_6 : afterStep (wordAt 0xF000#16 0x200 State.reset) (faultedWith 5#3 0xF000#16 0x0202#16) = true := by decide

/-! ### The guarded accessors (S2) and the host -/

theorem test_S2_guarded_access :
    readRegister 16#16 State.reset = .error (.outOfRangeRegister 16#16) ∧
    writeRegister 255#16 0x00#8 State.reset = .error (.outOfRangeRegister 255#16) := by decide
/-- V-RST-2. -/
theorem test_V_RST_2 :
    (loadImage [0x60#8, 0xFF#8, 0x12#8, 0x02#8] State.reset).map (fun t => (t.mem, t.pc, t.runState)) =
      .ok ([(0x200, 0x60#8), (0x201, 0xFF#8), (0x202, 0x12#8), (0x203, 0x02#8)], 0x0200#16, .idle) := by decide
/-- V-RST-5. -/
theorem test_V_RST_5 :
    resetCore { State.reset with runState := .faulted, faultKind := 3#3, sp := 16 } = State.reset := by decide

/-! ### Witnesses: concrete states and operands that meet the hypotheses of each statement, at the edges of its clauses -/

theorem test_witness_EncodeOfDecodeIsTheWord : decodeWord 0x6177#16 = .ok (.ldImm 1#4 0x77#8) := by decide
theorem test_witness_DecoderAgreesWithOpcodeTable : decodeWord 0xE39E#16 = .ok (.skp 3#4) := by decide
theorem test_witness_OpcodeRowsAreDisjoint :
    (opRows[0]'(by decide)).accepts 0x00E0#16 = true ∧ (opRows[26]'(by decide)).accepts 0xFFFF#16 = true := by decide
theorem test_witness_FieldsOfAWord : (3 < 4) ∧ (7 < 8) ∧ (11 < 12) := by decide
theorem test_witness_GuardedRegisterAccess : 16 ≤ (16#16 : Word).toNat := by decide
theorem test_witness_PushWritesThenIncrements :
    ({ State.reset with sp := 15 } : State).sp.val < 16 ∧ ({ State.reset with sp := 16 } : State).sp = 16 ∧ (14 ≠ 15) := by decide
theorem test_witness_PopDecrementsThenReads :
    0 < ({ State.reset with sp := 1 } : State).sp.val ∧ 0 < ({ State.reset with sp := 16 } : State).sp.val ∧
    State.reset.sp = 0 ∧ ({ State.reset with sp := 14 } : State).sp.val < 15 := by decide
theorem test_witness_MemoryAccessIsBounded :
    4096 ≤ (0x1000#16 : Word).toNat ∧ (0x0FFF#16 : Word).toNat < 4096 ∧ (wordAt 0x0000#16 0xFFF State.reset).mem.wf = true ∧
    (wordAt 0x0000#16 0xFFF State.reset).runState = .executing ∧ (wordAt 0x0000#16 0xFFF State.reset).pc = 0x0FFF#16 := by decide
theorem test_witness_FetchIsBigEndianAtAnyParity :
    (wordAt 0x6177#16 0xFFE State.reset).pc.toNat < 4095 ∧ (wordAt 0x6177#16 0x201 State.reset).pc.toNat < 4095 := by decide
theorem test_witness_StepRunsTheDecodedInstruction :
    (wordAt 0x6177#16 0xFFE State.reset).runState = .executing ∧ (wordAt 0x6177#16 0xFFE State.reset).pc.toNat < 4095 ∧
    decodeWord (wordOfBytes ((wordAt 0x6177#16 0xFFE State.reset).mem.read 0xFFE) ((wordAt 0x6177#16 0xFFE State.reset).mem.read 0xFFF)) =
      .ok (.ldImm 1#4 0x77#8) := by decide
theorem test_witness_StepPastTheEndHalts :
    ({ State.reset with pc := 0x1000#16, runState := .executing } : State).runState = .executing ∧
    4096 ≤ ({ State.reset with pc := 0x1000#16, runState := .executing } : State).pc.toNat := by decide
theorem test_witness_StepOverAnUnknownWordFaults :
    (wordAt 0x5001#16 0xFFE State.reset).runState = .executing ∧ (wordAt 0x5001#16 0xFFE State.reset).pc.toNat < 4095 ∧
    wordWellFormed (wordOfBytes ((wordAt 0x5001#16 0xFFE State.reset).mem.read 0xFFE) ((wordAt 0x5001#16 0xFFE State.reset).mem.read 0xFFF)) =
      false := by decide
theorem test_witness_OnlyAnExecutingCoreChanges :
    State.reset.runState ≠ .executing ∧ State.reset.halt.runState ≠ .executing ∧
    (raiseFault .stackOverflow State.reset).runState ≠ .executing := by decide
theorem test_witness_RunStateTransitions :
    step State.reset = .next State.reset ∧ (startCore State.reset).runState = .executing ∧
    step (wordAt 0x6000#16 0x200 State.reset) = .next { wordAt 0x6000#16 0x200 State.reset with pc := 0x0202#16 } :=
  ⟨rfl, rfl, rfl⟩
theorem test_witness_RetPopsTheProgramCounter :
    0 < ({ State.reset with sp := 16 } : State).sp.val ∧ State.reset.sp = 0 ∧
    (startCore { State.reset with sp := 1, stack := State.reset.stack.set 0 0x1000#16 }).runState = .executing := by decide
theorem test_witness_JpJumpsOrHaltsOnItself :
    (0x20C#12 : Addr).setWidth 16 = (startCore { State.reset with pc := 0x020E#16 }).pc - 2#16 ∧
    (startCore { State.reset with pc := 0x020E#16 }).runState = .executing ∧
    (0x202#12 : Addr).setWidth 16 ≠ ({ State.reset with pc := 0x0202#16 } : State).pc - 2#16 := by decide
theorem test_witness_CallPushesAndJumps :
    ({ State.reset with sp := 15 } : State).sp.val < 16 ∧ ({ State.reset with sp := 16 } : State).sp = 16 := by decide
theorem test_witness_JpV0AddsWithoutWrapping :
    (startCore (withRegs [(0#4, 0x01#8)])).runState = .executing ∧
    4096 ≤ (0xFFF#12 : Addr).toNat + ((startCore (withRegs [(0#4, 0x01#8)])).getV 0#4).toNat := by decide
theorem test_witness_SkipRegNonzeroN : (0x1#4 : Nibble) ≠ 0x0#4 := by decide
theorem test_witness_ResultThenFlag :
    ¬ (({ State.reset with vfMirror := true } : State).vfMirror = true ∧ (1#4 : RegIdx) = 15#4) ∧
    ({ State.reset with vfMirror := true } : State).vfMirror = true ∧ (2#4 : RegIdx) ∉ flagDests 1#4 State.reset := by decide
theorem test_witness_RegistersChangeOnlyAsTabulated :
    exec (.ldImm 1#4 0x77#8) State.reset = .next (State.reset.setV 1#4 0x77#8) ∧ ¬ MayWriteReg (.ldImm 1#4 0x77#8) State.reset 2#4 :=
  ⟨rfl, by simp [MayWriteReg, Instr.destReg, Instr.writesFlag]⟩
theorem test_witness_SpecialStateHasItsOwnWriters :
    exec (.ldImm 1#4 0x77#8) State.reset = .next (State.reset.setV 1#4 0x77#8) ∧ (Instr.ldImm 1#4 0x77#8).writesFlag = false ∧
    Instr.ldImm 1#4 0x77#8 ≠ .ret ∧ Instr.ldImm 1#4 0x77#8 ≠ .dump := ⟨rfl, rfl, by decide, by decide⟩
theorem test_witness_ProgramCounterAfterEachInstruction : exec .dump State.reset = .next State.reset.assertDump := rfl
/-- At the edge of memory a write stores its byte there and not in the cell below, and past it fails (R42). -/
theorem test_R42_memWrite :
    (memWrite 0x0FFF#16 0xAB#8 State.reset).map (fun t => (t.mem.read 0xFFF, t.mem.read 0xFFE)) = .ok (0xAB#8, 0x00#8) ∧
    memWrite 0x1000#16 0xAB#8 State.reset = .error (.outOfRangeMemory 0x1000#16) := by decide
theorem test_witness_FlagAndIndexAreNeverRead :
    step (wordAt 0x1200#16 0x200 State.reset) = .next { wordAt 0x1200#16 0x200 State.reset with pc := 0x1000#16 } := rfl
theorem test_witness_FaultsArePrecise :
    (wordAt 0x00E0#16 0x200 State.reset).runState = .executing ∧
    afterStep (wordAt 0x00E0#16 0x200 State.reset) (fun t => t.runState == .faulted && t.faultKind != 1#3) = true ∧
    afterStep (wordAt 0x0000#16 0xFFF State.reset) (fun t => t.runState == .faulted && t.faultKind == 1#3) = true := by decide
theorem test_witness_MemoryIsConstantDuringARun : run 1 State.reset = .next State.reset := rfl
/-- A GOOD state of each kind that is not IDLE: running, halted, faulted. -/
theorem test_witness_StepKeepsGoodState :
    GoodState (wordAt 0x6177#16 0x200 State.reset) ∧ GoodState { State.reset with pc := 0x1000#16, runState := .halted } ∧
    GoodState (raiseFault .stackOverflow { State.reset with sp := 16 }) :=
  ⟨⟨by decide, by decide, fun _ => ⟨rfl, rfl⟩, nofun, nofun, nofun⟩,
    ⟨by decide, by decide, fun _ => ⟨rfl, rfl⟩, nofun, fun _ => by decide, fun _ => rfl⟩,
    ⟨by decide, by decide, fun h => absurd rfl h, fun _ => by decide, nofun, fun _ => rfl⟩⟩
theorem test_witness_StepKeepsPcBounded :
    PcBounded (wordAt 0x00EE#16 0x200 { State.reset with sp := 1 }) ∧
    step (wordAt 0x1200#16 0x200 State.reset) = .next { wordAt 0x1200#16 0x200 State.reset with pc := 0x1000#16 } := by
  refine ⟨⟨by decide, fun j h => ?_⟩, rfl⟩
  show (State.reset.stack[j]'h).toNat ≤ 0x1000
  simp [State.reset]
theorem test_witness_StepKeepsFaultRecordTrue :
    FaultRecordTrue (raiseFault .stackOverflow { State.reset with sp := 16 }) ∧
    (raiseFault .stackOverflow { State.reset with sp := 16 }).runState = .faulted :=
  ⟨fun _ => .inr (.inl ⟨rfl, rfl, rfl⟩), rfl⟩
theorem test_witness_HostKeepsGoodState : GoodState State.reset ∧ loadImage [] State.reset = .ok { State.reset with pc := 0x0200#16 } :=
  ⟨⟨by decide, by decide, fun _ => ⟨rfl, rfl⟩, nofun, nofun, fun _ => rfl⟩, rfl⟩
theorem test_witness_HostWritesOnlyInIdle :
    State.reset.runState = .idle ∧ State.reset.mem.wf = true ∧ (startCore State.reset).runState ≠ .idle := by decide
theorem test_witness_LoadedImageLaunches :
    (List.replicate 3584 (0xFF#8 : Byte)).length ≤ 3584 ∧ 3584 < (List.replicate 3585 (0xFF#8 : Byte)).length := by
  rw [List.length_replicate, List.length_replicate]
  decide

end Sys2Proof.Tests
end

section
/-! PROOFS. What an instruction and a step can do, each said once as an inversion lemma, and the statements about the
state (spec/10_state.md) derived from them. -/

namespace Sys2Proof.Proofs

open Sys2Proof.Machine Sys2Proof.Safety

/-! ### Operands and the program counter as numbers -/

theorem toNat_addrOperand_lt (nnn : Addr) : (addrOperand nnn).toNat < 4096 := by
  have := nnn.isLt
  rw [addrOperand, BitVec.toNat_setWidth]
  omega

/-- The largest computed jump target is `0xFFF + 0xFF` (R93). -/
theorem toNat_indexedTarget_le (nnn : Addr) (s : State) : (indexedTarget nnn s).toNat ≤ 0x10FE := by
  have hn := toNat_addrOperand_lt nnn
  have hv := (s.getV 0#4).isLt
  rw [indexedTarget, zextByte, BitVec.toNat_add, BitVec.toNat_setWidth]
  omega

theorem toNat_nextPc {pc : Word} {b : Nat} (h : pc.toNat ≤ b) (hb : b + 2 < 2 ^ 16) : (nextPc pc).toNat ≤ b + 2 := by
  rw [nextPc, BitVec.toNat_add, BitVec.toNat_ofNat]
  omega

/-! ### What an instruction can do -/

/-- The states an instruction can answer, over the shared operations, with what each says of the instruction and of the
state before it. -/
inductive Effect (i : Instr) (s : State) : State → Prop where
  /-- A register write through the `x` field, without a flag (R110, R111, R120 to R123). -/
  | writeReg (x : RegIdx) (b : Byte) (hd : i.destReg = some x) : Effect i s (s.setV x b)
  /-- A masked random byte (R113). -/
  | draw (x : RegIdx) (kk : Byte) (hi : i = .rnd x kk) : Effect i s (s.setV x (s.rndByte &&& kk)).nextDraw
  /-- A result and then its flag (R124 to R129). -/
  | writeFlag (x : RegIdx) (b : Byte) (flag : Bool) (hd : i.destReg = some x) (hf : i.writesFlag = true) :
    Effect i s (writeResultAndFlag x b flag s)
  /-- A load of `I` (R112). -/
  | setIndex (nnn : Addr) (hi : i = .ldI nnn) : Effect i s (s.setIndex (addrOperand nnn))
  /-- The dump request (R140). -/
  | dump (hi : i = .dump) : Effect i s s.assertDump
  /-- A skip, or none (R100 to R103). -/
  | skip (c : Bool) : Effect i s (skipIf c s)
  /-- A jump (R91, R93). -/
  | jump (w : Word) (hw : w.toNat ≤ 0x10FE) : Effect i s (s.setPc w)
  /-- A return with an entry to pop (R90). -/
  | ret (hi : i = .ret) (hpos : 0 < s.sp.val) (hj : s.sp.val - 1 < 16) :
    Effect i s { s with sp := ⟨s.sp.val - 1, by omega⟩, pc := s.stack[s.sp.val - 1]'hj }
  /-- A call with room on the stack (R92). -/
  | call (nnn : Addr) (hi : i = .call nnn) (hlt : s.sp.val < 16) :
    Effect i s { s with
      stack := s.stack.set s.sp.val s.pc hlt, sp := ⟨s.sp.val + 1, Nat.succ_lt_succ hlt⟩, pc := addrOperand nnn }
  /-- A return with an empty stack (R90, R154). -/
  | underflow (hi : i = .ret) (hsp : s.sp.val = 0) : Effect i s (raiseFault .stackUnderflow s)
  /-- A call with a full stack (R92, R153). -/
  | overflow (nnn : Addr) (hi : i = .call nnn) (hsp : s.sp.val = 16) : Effect i s (raiseFault .stackOverflow s)
  /-- A pattern that is defined and not implemented (R147, R155). -/
  | unimplemented (hi : i.isUnimplemented = true) : Effect i s (raiseUnimplemented i s)

/-- Whatever an instruction answers is one of its effects. -/
theorem exec_effect {i : Instr} {s t : State} (h : exec i s = .next t) : Effect i s t := by
  cases i with
  | cls | drw _ _ _ | skp _ | sknp _ | fxxx _ => cases h; exact .unimplemented rfl
  | dump => cases h; exact .dump rfl
  | ldImm x _ | addImm x _ | ldReg x _ | orReg x _ | andReg x _ | xorReg x _ => cases h; exact .writeReg x _ rfl
  | addReg x _ | subReg x _ | shr x _ | subn x _ | shl x _ => cases h; exact .writeFlag x _ _ rfl rfl
  | rnd x kk => cases h; exact .draw x kk rfl
  | ldI nnn => cases h; exact .setIndex nnn rfl
  | seImm _ _ | sneImm _ _ | seReg _ _ | sneReg _ _ => cases h; exact .skip _
  | jp nnn =>
    have hn := toNat_addrOperand_lt nnn
    rw [Laws.exec_jp] at h
    cases h
    refine .jump _ ?_
    split
    · decide
    · omega
  | jpV0 nnn => cases h; exact .jump _ (toNat_indexedTarget_le nnn s)
  | ret =>
    rcases Nat.eq_zero_or_pos s.sp.val with hsp | hpos
    · rw [Laws.exec_ret_of_empty hsp] at h
      cases h
      exact .underflow rfl hsp
    · have hj : s.sp.val - 1 < 16 := by omega
      rw [Laws.exec_ret_of_pos hpos hj] at h
      cases h
      exact .ret rfl hpos hj
  | call nnn =>
    rcases Nat.lt_or_ge s.sp.val 16 with hlt | hge
    · rw [Laws.exec_call_of_lt nnn hlt] at h
      cases h
      exact .call nnn rfl hlt
    · have hsp : s.sp.val = 16 := by omega
      rw [Laws.exec_call_of_full nnn hsp] at h
      cases h
      exact .overflow nnn rfl hsp

@[simp] theorem raiseUnimplemented_eq (i : Instr) (s : State) :
    raiseUnimplemented i s = raiseFault (.unimplementedOpcode (encode i)) s := rfl

section
variable {i : Instr} {s t : State}

theorem Effect.mem_eq (h : Effect i s t) : t.mem = s.mem := by cases h <;> simp

/-- An instruction leaves the run state and the fault registers as they are, or raises a fault of execution in the state
before it (R87, R159). -/
theorem Effect.keeps_record_or_raises (h : Effect i s t) :
    (t.runState = s.runState ∧ t.faultKind = s.faultKind ∧ t.faultInfo = s.faultInfo) ∨
    ∃ f, (faultCode f = 3#3 ∨ faultCode f = 4#3 ∨ faultCode f = 5#3) ∧ t = raiseFault f s := by
  cases h with
  | overflow => exact .inr ⟨_, .inl rfl, rfl⟩
  | underflow => exact .inr ⟨_, .inr (.inl rfl), rfl⟩
  | unimplemented => exact .inr ⟨_, .inr (.inr rfl), rfl⟩
  | _ => left; simp

theorem Effect.index_eq_or_addrOperand (h : Effect i s t) : t.index = s.index ∨ ∃ nnn, t.index = addrOperand nnn := by
  cases h with
  | setIndex nnn => exact .inr ⟨nnn, rfl⟩
  | _ => left; simp

end

/-! ### What a step can do -/

/-- The state an instruction is executed from: the dump output not asserted, `pc` past the word (R34, R82, R85). -/
def executeState (s : State) : State := s.clearDump.setPc (nextPc s.pc)

/-- The states a step can answer, with what each says of the state before it. -/
inductive StepEffect (s : State) : State → Prop where
  /-- No step outside EXECUTING (R80). -/
  | rest (hr : s.runState ≠ .executing) : StepEffect s s
  /-- The normal end (R81). -/
  | halt (hx : s.runState = .executing) (hpc : 4096 ≤ s.pc.toNat) : StepEffect s s.clearDump.halt
  /-- The fetch fault (R82, R151). -/
  | fetchFault (hx : s.runState = .executing) (hpc : s.pc = 0x0FFF#16) :
    StepEffect s (raiseFault (.outOfRangeMemory 0x1000#16) s.clearDump)
  /-- A word no row accepts (R70, R156). -/
  | unknown (w : Word) (e : DecodeError) (hx : s.runState = .executing) (hpc : s.pc.toNat < 4095)
    (hf : fetchWord s = .ok w) (hd : decodeWord w = .error e) :
    StepEffect s (raiseFault (.unknownOpcode w) (executeState s))
  /-- An instruction (R82 to R85). -/
  | instr (w : Word) (i : Instr) {t : State} (hx : s.runState = .executing) (hpc : s.pc.toNat < 4095)
    (hf : fetchWord s = .ok w) (hd : decodeWord w = .ok i) (he : Effect i (executeState s) t) : StepEffect s t

/-- Whatever a step answers is one of its effects. -/
theorem step_effect {s t : State} (h : step s = .next t) : StepEffect s t := by
  by_cases hx : s.runState = .executing
  · rw [Laws.step_executing hx] at h
    rcases Laws.runLoopPass_cases s.clearDump with
      ⟨hpc, e⟩ | ⟨hpc, e⟩ | ⟨w, err, hpc, hf, hd, e⟩ | ⟨w, i, hpc, hf, hd, e⟩ <;> rw [e] at h
    · cases h; exact .halt hx hpc
    · cases h; exact .fetchFault hx hpc
    · cases h; exact .unknown w err hx (Nat.lt_of_succ_lt_succ hpc) hf hd
    · exact .instr w i hx (Nat.lt_of_succ_lt_succ hpc) hf hd (exec_effect h)
  · rw [Laws.step_not_executing hx] at h
    cases h
    exact .rest hx

/-! ### The invariant of the core's records -/

/-- In EXECUTING the invariant speaks of memory, `I` and the fault registers only. -/
theorem goodState_executing_iff {s : State} (hx : s.runState = .executing) :
    GoodState s ↔
      s.mem.wf = true ∧ s.index.toNat < Config.memSize ∧ s.faultKind = 0#3 ∧ s.faultInfo = 0x0000#16 := by
  simp [GoodState, hx]

/-- A fault the core can latch, raised in a state whose dump output is not asserted, gives a good state. -/
theorem goodState_raiseFault {f : Fault} {s : State}
    (hf : faultCode f = 1#3 ∨ faultCode f = 3#3 ∨ faultCode f = 4#3 ∨ faultCode f = 5#3 ∨ faultCode f = 6#3)
    (hm : s.mem.wf = true) (hi : s.index.toNat < Config.memSize) (hd : s.dumpReq = false) :
    GoodState (raiseFault f s) :=
  ⟨hm, hi, fun h => absurd rfl h, fun _ => hf, nofun, fun _ => hd⟩

/-- An instruction of an EXECUTING core with the dump output not asserted keeps the invariant. -/
theorem Effect.keeps_goodState {i : Instr} {s t : State} (he : Effect i s t) (hx : s.runState = .executing)
    (hd : s.dumpReq = false) (hs : GoodState s) : GoodState t := by
  obtain ⟨hm, hi, hk, hinfo⟩ := (goodState_executing_iff hx).mp hs
  rcases he.keeps_record_or_raises with ⟨hr, hk', hinfo'⟩ | ⟨f, hf, rfl⟩
  · have hi' : t.index.toNat < Config.memSize := by
      rcases he.index_eq_or_addrOperand with e | ⟨nnn, e⟩ <;> rw [e]
      · exact hi
      · exact toNat_addrOperand_lt nnn
    exact (goodState_executing_iff (hr.trans hx)).mpr
      ⟨he.mem_eq ▸ hm, hi', hk'.trans hk, hinfo'.trans hinfo⟩
  · exact goodState_raiseFault (by tauto) hm hi hd

/-- Settles O51: what a step can do, case by case; only a fault and the halt leave EXECUTING, and both with the dump
output not asserted. -/
theorem stepKeepsGoodState : Obligations.StepKeepsGoodState := by
  intro s t hs h
  have ⟨hm, hi, _⟩ := hs
  cases step_effect h with
  | rest => exact hs
  | halt hx hpc =>
    obtain ⟨-, -, hk, hinfo⟩ := (goodState_executing_iff hx).mp hs
    exact ⟨hm, hi, fun _ => ⟨hk, hinfo⟩, nofun, fun _ => hpc, fun _ => rfl⟩
  | fetchFault => exact goodState_raiseFault (.inl rfl) hm hi rfl
  | unknown => exact goodState_raiseFault (by simp [faultCode]) hm hi rfl
  | instr w i hx _ _ _ he =>
    have hs' : GoodState (executeState s) :=
      (goodState_executing_iff (s := executeState s) hx).mpr ((goodState_executing_iff hx).mp hs)
    exact he.keeps_goodState hx rfl hs'

/-! ### The bound on the program counter -/

/-- Executed with `pc` at most `0x1000`, an instruction leaves `pc` and the stack in their bounds: a skip adds 2, a
return takes a stacked address, a call stacks `pc`, and a jump target is at most `0x10FE`. -/
theorem Effect.pcBounded {i : Instr} {s t : State} (he : Effect i s t) (hpc : s.pc.toNat ≤ 0x1000)
    (hst : ∀ (j : Nat) (h : j < 16), (s.stack[j]'h).toNat ≤ 0x1000) : PcBounded t := by
  cases he with
  | skip c =>
    refine ⟨?_, by simpa using hst⟩
    have := toNat_nextPc hpc (by decide)
    cases c <;> simp <;> omega
  | jump w hw => exact ⟨hw, hst⟩
  | ret hi hpos hj => exact ⟨(hst _ hj).trans (by decide), hst⟩
  | call nnn hi hlt =>
    have hn := toNat_addrOperand_lt nnn
    refine ⟨by show (addrOperand nnn).toNat ≤ _; omega, fun j hj => ?_⟩
    show ((s.stack.set s.sp.val s.pc hlt)[j]'hj).toNat ≤ _
    rw [Vector.getElem_set]
    split
    · exact hpc
    · exact hst j hj
  | _ => exact ⟨by simp; omega, by simpa using hst⟩

theorem executeState_pc_le {s : State} (h : s.pc.toNat < 4095) : (executeState s).pc.toNat ≤ 0x1000 :=
  toNat_nextPc (b := 0xFFE) (Nat.le_of_lt_succ h) (by decide)

/-- Settles O52: a word is fetched below 4095 only, so an instruction runs with `pc` at most `0x1000`. -/
theorem stepKeepsPcBounded : Obligations.StepKeepsPcBounded := by
  intro s t hs h
  obtain ⟨hpc, hst⟩ := hs
  cases step_effect h with
  | rest | halt | fetchFault => exact ⟨hpc, hst⟩
  | unknown w e hx hlt => exact ⟨(executeState_pc_le hlt).trans (by decide), hst⟩
  | instr w i hx hlt hf hd he => exact he.pcBounded (executeState_pc_le hlt) hst

/-! ### What an instruction leaves unchanged -/

/-- A register is changed only by an effect that writes it (R38). -/
theorem Effect.getV_eq {i : Instr} {s t : State} (he : Effect i s t) {r : RegIdx} (hr : ¬ MayWriteReg i s r) :
    t.getV r = s.getV r := by
  obtain ⟨hdest, hflag⟩ := not_or.mp hr
  cases he with
  | writeReg x b hd =>
    have hne : r ≠ x := by rintro rfl; exact hdest hd
    exact Laws.getV_setV_of_ne s b hne
  | draw x kk hi =>
    have hne : r ≠ x := by rintro rfl; exact hdest (by rw [hi]; rfl)
    exact Laws.getV_setV_of_ne s _ hne
  | writeFlag x b flag hd hf =>
    have hne : r ≠ x := by rintro rfl; exact hdest hd
    have hvf : ¬ (s.vfMirror = true ∧ r = 15#4) := fun h => hflag ⟨hf, h⟩
    rw [Laws.getV_writeResultAndFlag, if_neg hvf, if_neg hne]
  | ret | call => rfl
  | _ => simp

/-- Settles O45, by the effects of an instruction. -/
theorem registersChangeOnlyAsTabulated : Obligations.RegistersChangeOnlyAsTabulated :=
  fun _ _ _ h _ hr => (exec_effect h).getV_eq hr

/-- Settles O46: each effect that changes one of the six names its instruction. -/
theorem specialStateHasItsOwnWriters : Obligations.SpecialStateHasItsOwnWriters := by
  intro i s t h
  cases exec_effect h with
  | writeFlag x b flag hd hf => simp [hf]
  | draw _ _ hi | setIndex _ hi | dump hi | ret hi | call _ hi | underflow hi | overflow _ hi => subst hi; simp
  | writeReg | skip | jump | unimplemented => simp

/-! ### Where an instruction leaves `pc` -/

/-- Settles O47: by each instruction's own equation; a return and a call that fault leave `pc`. -/
theorem programCounterAfterEachInstruction : Obligations.ProgramCounterAfterEachInstruction := by
  intro i s t h
  cases i with
  | jp nnn | jpV0 nnn => cases h; rfl
  | seImm | sneImm | seReg | sneReg => cases h; simp [nextPc]
  | addReg | subReg | shr | subn | shl => cases h; simp
  | ret =>
    rcases Nat.eq_zero_or_pos s.sp.val with hsp | hpos
    · rw [Laws.exec_ret_of_empty hsp] at h
      cases h
      exact (if_pos (Fin.ext hsp)).symm
    · have hj : s.sp.val - 1 < 16 := by omega
      have hne : s.sp ≠ 0 := fun e => by simp [e] at hpos
      rw [Laws.exec_ret_of_pos hpos hj] at h
      cases h
      simp [hne, List.getD, hj]
  | call nnn =>
    rcases Nat.lt_or_ge s.sp.val 16 with hlt | hge
    · have hne : s.sp ≠ 16 := fun e => by simp [e] at hlt
      rw [Laws.exec_call_of_lt nnn hlt] at h
      cases h
      exact (if_neg hne).symm
    · have hsp : s.sp.val = 16 := by omega
      rw [Laws.exec_call_of_full nnn hsp] at h
      cases h
      exact (if_pos (Fin.ext hsp)).symm
  | _ => cases h; rfl

/-! ### The run state -/

/-- An instruction leaves the run state, or faults. -/
theorem Effect.runState_eq_or_faulted {i : Instr} {s t : State} (he : Effect i s t) :
    t.runState = s.runState ∨ t.runState = .faulted := by
  rcases he.keeps_record_or_raises with ⟨hr, -, -⟩ | ⟨f, -, rfl⟩
  · exact .inl hr
  · exact .inr rfl

/-- What a step of an EXECUTING core does to the run state: past the end it halts, elsewhere it goes on or faults (R31). -/
theorem step_runState {s t : State} (h : step s = .next t) (hx : s.runState = .executing) :
    (4096 ≤ s.pc.toNat ∧ t.runState = .halted) ∨
    (s.pc.toNat < 4096 ∧ (t.runState = .executing ∨ t.runState = .faulted)) := by
  cases step_effect h with
  | rest hr => exact absurd hx hr
  | halt _ hpc => exact .inl ⟨hpc, rfl⟩
  | fetchFault _ hpc => exact .inr ⟨by rw [hpc]; decide, .inr rfl⟩
  | unknown w e _ hlt => exact .inr ⟨by omega, .inr rfl⟩
  | instr w i _ hlt _ _ he => exact .inr ⟨by omega, he.runState_eq_or_faulted.imp_left (·.trans hx)⟩

/-- Settles O21, by what a step does to the run state. -/
theorem runStateTransitions : Obligations.RunStateTransitions := by
  refine ⟨⟨rfl, rfl, rfl, rfl⟩, fun s t h => ⟨fun hr => ?_, fun hx => ?_, fun hx => ?_⟩, fun s => ⟨rfl, ?_⟩⟩
  · rw [Laws.step_not_executing hr] at h
    cases h
    rfl
  · rcases step_runState h hx with ⟨-, hr⟩ | ⟨-, hr | hr⟩ <;> simp [hr]
  · rcases step_runState h hx with ⟨hpc, hr⟩ | ⟨hpc, hr | hr⟩ <;> simp [hr, hpc]
  · unfold startCore
    split <;> simp [*]

/-! ### Nothing reads `CF` or `I` -/

/-- The core with other values in `CF` and `I`. -/
def withFlagIndex (c : Bool) (w : Word) (s : State) : State := { s with cf := c, index := w }

/-- From `s` an operation answers the same whatever `CF` and `I` hold, but for them, and each of the two is either kept
or the same whatever it was (R25, R30). -/
def IgnoresFlagIndex (op : State → Host.Outcome State Fault Refusal) (s : State) : Prop :=
  ∀ (t : State) (c : Bool) (w : Word), op s = .next t →
    ∃ (c' : Bool) (w' : Word), op (withFlagIndex c w s) = .next (withFlagIndex c' w' t) ∧
      ((t.cf = s.cf ∧ c' = c) ∨ c' = t.cf) ∧ ((t.index = s.index ∧ w' = w) ∨ w' = t.index)

/-- An operation that keeps both and answers the same but for them ignores them. -/
theorem ignoresFlagIndex_of_keeps {op : State → Host.Outcome State Fault Refusal} {s t : State} (h : op s = .next t)
    (hop : ∀ c w, op (withFlagIndex c w s) = .next (withFlagIndex c w t)) (hc : t.cf = s.cf)
    (hi : t.index = s.index) : IgnoresFlagIndex op s := by
  intro t' c w h'
  cases h.symm.trans h'
  exact ⟨c, w, hop c w, .inl ⟨hc, rfl⟩, .inl ⟨hi, rfl⟩⟩

theorem skipIf_withFlagIndex (b c : Bool) (w : Word) (s : State) :
    skipIf b (withFlagIndex c w s) = withFlagIndex c w (skipIf b s) := by cases b <;> rfl

theorem writeResultAndFlag_withFlagIndex (x : RegIdx) (res : Byte) (flag c : Bool) (w : Word) (s : State) :
    writeResultAndFlag x res flag (withFlagIndex c w s) = withFlagIndex flag w (writeResultAndFlag x res flag s) := by
  cases hm : s.vfMirror <;> simp [writeResultAndFlag, setFlag, withFlagIndex, State.setV, State.setCf, hm]

/-- A result and a flag of registers alone put the flag, and keep `I`. -/
theorem ignoresFlagIndex_of_writeFlag {op : State → Host.Outcome State Fault Refusal} {s : State} {x : RegIdx}
    {res : Byte} {flag : Bool} (h : op s = .next (writeResultAndFlag x res flag s))
    (hop : ∀ c w, op (withFlagIndex c w s) = .next (writeResultAndFlag x res flag (withFlagIndex c w s))) :
    IgnoresFlagIndex op s := by
  intro t c w h'
  cases h.symm.trans h'
  refine ⟨flag, w, ?_, .inr ?_, .inl ⟨?_, rfl⟩⟩
  · rw [hop, writeResultAndFlag_withFlagIndex]
  · simp
  · simp

theorem exec_ignoresFlagIndex (i : Instr) (s : State) : IgnoresFlagIndex (exec i) s := by
  cases i with
  | ldI nnn => intro t c w h; cases h; exact ⟨c, addrOperand nnn, rfl, .inl ⟨rfl, rfl⟩, .inr rfl⟩
  | addReg | subReg | shr | subn | shl => exact ignoresFlagIndex_of_writeFlag rfl fun _ _ => rfl
  | seImm | sneImm | seReg | sneReg =>
    refine ignoresFlagIndex_of_keeps rfl (fun c w => ?_) (by simp) (by simp)
    exact congrArg _ (skipIf_withFlagIndex _ c w s)
  | ret =>
    rcases Nat.eq_zero_or_pos s.sp.val with hsp | hpos
    · exact ignoresFlagIndex_of_keeps (Laws.exec_ret_of_empty hsp) (fun _ _ => Laws.exec_ret_of_empty hsp) rfl rfl
    · have hj : s.sp.val - 1 < 16 := by omega
      exact ignoresFlagIndex_of_keeps (Laws.exec_ret_of_pos hpos hj)
        (fun c w => Laws.exec_ret_of_pos (s := withFlagIndex c w s) hpos hj) rfl rfl
  | call nnn =>
    rcases Nat.lt_or_ge s.sp.val 16 with hlt | hge
    · exact ignoresFlagIndex_of_keeps (Laws.exec_call_of_lt nnn hlt)
        (fun c w => Laws.exec_call_of_lt (s := withFlagIndex c w s) nnn hlt) rfl rfl
    · have hsp : s.sp.val = 16 := by omega
      exact ignoresFlagIndex_of_keeps (Laws.exec_call_of_full nnn hsp)
        (fun _ _ => Laws.exec_call_of_full nnn hsp) rfl rfl
  | _ => exact ignoresFlagIndex_of_keeps rfl (fun _ _ => rfl) rfl rfl

theorem dispatchWord_ignoresFlagIndex (w : Word) (s : State) : IgnoresFlagIndex (dispatchWord w) s := by
  unfold dispatchWord
  cases decodeWord w with
  | ok i => exact exec_ignoresFlagIndex i s
  | error e => exact ignoresFlagIndex_of_keeps rfl (fun _ _ => rfl) rfl rfl

/-- A pass of the run loop: neither the check of `pc` nor the fetch reads `CF` or `I`, so both runs take one branch. -/
theorem runLoopPass_ignoresFlagIndex (s : State) : IgnoresFlagIndex runLoopPass s := by
  have hpc (c w) : (withFlagIndex c w s).pc = s.pc := rfl
  have hfetch (c w) : fetchWord (withFlagIndex c w s) = fetchWord s := rfl
  by_cases hend : Config.memSize ≤ s.pc.toNat
  · refine ignoresFlagIndex_of_keeps (t := s.halt) ?_ (fun c w => ?_) rfl rfl
    · rw [runLoopPass, if_pos hend]
    · rw [runLoopPass, hpc, if_pos hend]; rfl
  · cases hf : fetchWord s with
    | error f =>
      refine ignoresFlagIndex_of_keeps (t := raiseFault f s) ?_ (fun c w => ?_) rfl rfl
      · rw [runLoopPass, if_neg hend, hf]
      · rw [runLoopPass, hpc, if_neg hend, hfetch, hf]; rfl
    | ok word =>
      intro t c w h
      rw [runLoopPass, if_neg hend, hf] at h
      rw [runLoopPass, hpc, if_neg hend, hfetch, hf]
      exact dispatchWord_ignoresFlagIndex word (s.setPc (nextPc s.pc)) t c w h

/-- Settles O48: outside EXECUTING both cores stay as they are, else both make the same pass. -/
theorem flagAndIndexAreNeverRead : Obligations.FlagAndIndexAreNeverRead := by
  intro s t c w h
  by_cases hx : s.runState = .executing
  · have hx' : (withFlagIndex c w s).runState = .executing := hx
    rw [Laws.step_executing hx] at h
    obtain ⟨c', w', h', hcf, hindex⟩ := runLoopPass_ignoresFlagIndex s.clearDump t c w h
    exact ⟨c', w', (Laws.step_executing hx').trans h', hcf, hindex⟩
  · have hx' : (withFlagIndex c w s).runState ≠ .executing := hx
    rw [Laws.step_not_executing hx] at h
    cases h
    exact ⟨c, w, Laws.step_not_executing hx', .inl ⟨rfl, rfl⟩, .inl ⟨rfl, rfl⟩⟩

/-! ### The call stack -/

theorem keepsAllBut_sp (s : State) (sp : Fin 17) : KeepsAllBut [] [.sp] s { s with sp := sp } := by
  refine ⟨fun _ _ => rfl, fun p hp => ?_, fun _ => rfl⟩
  cases p with
  | sp => exact absurd (by simp) hp
  | _ => rfl

theorem keepsAllBut_stack_sp (s : State) (st : Vector Word 16) (sp : Fin 17) :
    KeepsAllBut [] [.stack, .sp] s { s with stack := st, sp := sp } := by
  refine ⟨fun _ _ => rfl, fun p hp => ?_, fun _ => rfl⟩
  cases p with
  | stack | sp => exact absurd (by simp) hp
  | _ => rfl

/-- A pop from `n + 1` entries answers entry `n` (R29). -/
theorem pop_of_sp_succ {w : Word} {n : Nat} {s : State} (hn : n < 16) (hsp : s.sp.val = n + 1)
    (hw : s.stack[n]'hn = w) : pop s = .ok (w, { s with sp := ⟨n, by omega⟩ }) := by
  subst hw
  rw [Laws.pop_of_pos (by omega) (by omega)]
  simp [hsp]

/-- Settles O11. -/
theorem pushWritesThenIncrements : Obligations.PushWritesThenIncrements := by
  refine fun w s => ⟨fun hsp => Laws.push_of_full w (by rw [hsp]; rfl),
    fun h => ⟨_, Laws.push_of_lt w h, ?_, ?_, rfl, ?_⟩⟩
  · exact Vector.getElem_set_self h
  · exact fun j hj hne => Vector.getElem_set_ne h hj hne.symm
  · exact keepsAllBut_stack_sp s _ _

/-- Settles O12: after two pushes the upper entry is the second word, and the lower one, which the second push does not
touch, the first. -/
theorem popDecrementsThenReads : Obligations.PopDecrementsThenReads := by
  refine fun s => ⟨fun hsp => Laws.pop_of_empty (by rw [hsp]; rfl), fun hpos => ?_, fun hlt a b => ?_⟩
  · have hj : s.sp.val - 1 < 16 := by omega
    exact ⟨_, _, hj, Laws.pop_of_pos hpos hj, rfl, rfl, keepsAllBut_sp s _⟩
  · have hlow : s.sp.val < 16 := by omega
    have hhigh : s.sp.val + 1 < 16 := by omega
    have hb : ((s.stack.set s.sp.val a hlow).set (s.sp.val + 1) b hhigh)[s.sp.val + 1]'hhigh = b :=
      Vector.getElem_set_self hhigh
    have ha : ((s.stack.set s.sp.val a hlow).set (s.sp.val + 1) b hhigh)[s.sp.val]'hlow = a := by
      rw [Vector.getElem_set_ne hhigh hlow (by omega), Vector.getElem_set_self hlow]
    exact ⟨_, _, _, _, Laws.push_of_lt a hlow, Laws.push_of_lt b hhigh, pop_of_sp_succ hhigh rfl hb,
      pop_of_sp_succ hlow rfl ha, rfl⟩

/-! ### Registers -/

/-- Settles O9. -/
theorem registerReadsLastWrite : Obligations.RegisterReadsLastWrite := by
  refine fun s x b => ⟨Laws.getV_setV_same s x b, fun r hr => ?_, fun p _ => ?_, fun _ => rfl⟩
  · exact Laws.getV_setV_of_ne s b (by simpa using hr)
  · cases p <;> rfl

/-- Settles O10. -/
theorem guardedRegisterAccess : Obligations.GuardedRegisterAccess := by
  refine fun s b => ⟨fun idx hidx => ?_, fun x => ?_⟩
  · have hge : ¬ idx.toNat < 16 := by omega
    exact ⟨dif_neg hge, dif_neg hge⟩
  · have hx : (x.setWidth 16).toNat = x.toNat := by
      have := x.isLt
      rw [BitVec.toNat_setWidth]
      omega
    have hlt : (x.setWidth 16).toNat < 16 := hx ▸ x.isLt
    refine ⟨(dif_pos hlt).trans ?_, (dif_pos hlt).trans ?_⟩
    · simp only [hx]; rfl
    · simp only [hx]; rfl

/-! ### Reset and the host -/

theorem zeroedState_reset : ZeroedState State.reset := by
  refine ⟨fun _ => rfl, fun r => ?_, fun j hj => ?_, rfl, rfl, rfl, rfl, rfl, rfl, rfl⟩
  · exact Vector.getElem_replicate r.isLt
  · exact Vector.getElem_replicate hj

/-- Settles O8: the parameter and the draw counter, which a reset keeps, are no part of the claim. -/
theorem resetZeroesEveryPiece : Obligations.ResetZeroesEveryPiece :=
  ⟨zeroedState_reset, fun _ => zeroedState_reset⟩

/-- In IDLE the invariant speaks of memory, `I`, the fault registers and the dump output only. -/
theorem goodState_idle_iff {s : State} (h : s.runState = .idle) :
    GoodState s ↔ s.mem.wf = true ∧ s.index.toNat < Config.memSize ∧
      (s.faultKind = 0#3 ∧ s.faultInfo = 0x0000#16) ∧ s.dumpReq = false := by
  simp [GoodState, h]

theorem goodState_reset : GoodState State.reset :=
  (goodState_idle_iff rfl).mpr ⟨rfl, by decide, ⟨rfl, rfl⟩, rfl⟩

/-- Settles O54. -/
theorem resetSatisfiesTheInvariants : Obligations.ResetSatisfiesTheInvariants := by
  refine ⟨goodState_reset, ⟨by decide, fun j hj => ?_⟩, nofun⟩
  obtain ⟨-, -, hstack, -⟩ := zeroedState_reset
  rw [hstack j hj]
  decide

theorem resetCore_goodState (s : State) : GoodState (resetCore s) :=
  (goodState_idle_iff (s := resetCore s) rfl).mpr ((goodState_idle_iff rfl).mp goodState_reset)

theorem hostWrite_of_idle (a : Addr) (b : Byte) {s : State} (h : s.runState = .idle) :
    hostWrite a b s = { s with mem := s.mem.write a.toNat b } := if_pos h

theorem hostWrite_of_not_idle (a : Addr) (b : Byte) {s : State} (h : s.runState ≠ .idle) : hostWrite a b s = s :=
  if_neg h

theorem hostSetPc_of_idle (w : Word) {s : State} (h : s.runState = .idle) : hostSetPc w s = s.setPc w := if_pos h

theorem hostSetPc_of_not_idle (w : Word) {s : State} (h : s.runState ≠ .idle) : hostSetPc w s = s := if_neg h

section
variable {s : State} (hs : GoodState s)
include hs

theorem hostWrite_goodState (a : Addr) (b : Byte) : GoodState (hostWrite a b s) := by
  obtain ⟨hm, hrest⟩ := hs
  refine ⟨Laws.hostWrite_wf a b hm, ?_⟩
  unfold hostWrite
  split <;> exact hrest

theorem hostSetPc_goodState (w : Word) : GoodState (hostSetPc w s) := by
  by_cases h : s.runState = .idle
  · rw [hostSetPc_of_idle w h]
    exact (goodState_idle_iff (s := s.setPc w) h).mpr ((goodState_idle_iff h).mp hs)
  · rwa [hostSetPc_of_not_idle w h]

theorem startCore_goodState : GoodState (startCore s) := by
  unfold startCore
  split
  case isTrue h =>
    obtain ⟨hm, hi, ⟨hk, hinfo⟩, -⟩ := (goodState_idle_iff h).mp hs
    exact (goodState_executing_iff rfl).mpr ⟨hm, hi, hk, hinfo⟩
  case isFalse => exact hs

theorem hostWriteBytes_goodState (a : Addr) (bs : List Byte) : GoodState (hostWriteBytes a bs s) := by
  induction bs generalizing a s with
  | nil => exact hs
  | cons b bs ih => exact ih (hostWrite_goodState hs a b) (a + 1#12)

/-- A load that is accepted is byte writes and a write of `pc` (R182). -/
theorem loadImage_goodState {image : List Byte} {t : State} (h : loadImage image s = .ok t) : GoodState t := by
  unfold loadImage at h
  split at h
  · cases h
    exact hostSetPc_goodState (hostWriteBytes_goodState hs _ _) _
  · cases h

end

/-- Settles O55. -/
theorem hostKeepsGoodState : Obligations.HostKeepsGoodState := fun s hs =>
  ⟨resetCore_goodState s, startCore_goodState hs, hostSetPc_goodState hs, hostWrite_goodState hs,
    fun _ _ => loadImage_goodState hs⟩

/-- Settles O56. -/
theorem hostWritesOnlyInIdle : Obligations.HostWritesOnlyInIdle := by
  refine fun s a b w => ⟨fun h hm => ⟨fun a' => ?_, ?_, hostSetPc_of_idle w h⟩, fun h => ?_⟩
  · rw [hostWrite_of_idle a b h]
    exact Laws.read_write hm a.toNat b a'
  · rw [hostWrite_of_idle a b h]
  · exact ⟨hostWrite_of_not_idle a b h, hostSetPc_of_not_idle w h⟩

end Sys2Proof.Proofs
end

section
/-! PROOFS. The memory accesses and the fetch as equations, and what a run keeps: the statements about memory
(spec/20_memory.md). -/

namespace Sys2Proof.Proofs

open Sys2Proof.Machine Sys2Proof.Safety

/-! ### Byte accesses and the fetch -/

section
variable {addr : Word} {s : State}

theorem memRead_of_lt (h : addr.toNat < 4096) : memRead addr s = .ok (s.mem.read addr.toNat) := if_neg (Nat.not_le.mpr h)

theorem memRead_of_ge (h : 4096 ≤ addr.toNat) : memRead addr s = .error (.outOfRangeMemory addr) := if_pos h

theorem memWrite_of_lt (b : Byte) (h : addr.toNat < 4096) :
    memWrite addr b s = .ok { s with mem := s.mem.write addr.toNat b } := if_neg (Nat.not_le.mpr h)

theorem memWrite_of_ge (b : Byte) (h : 4096 ≤ addr.toNat) : memWrite addr b s = .error (.outOfRangeMemory addr) :=
  if_pos h

theorem fetchWord_of_lt (h : s.pc.toNat < 4095) :
    fetchWord s = .ok (wordOfBytes (s.mem.read s.pc.toNat) (s.mem.read (s.pc.toNat + 1))) := by
  have hsucc : (s.pc + 1#16).toNat = s.pc.toNat + 1 := by
    rw [BitVec.toNat_add, BitVec.toNat_ofNat]
    omega
  have hhi : memRead s.pc s = .ok (s.mem.read s.pc.toNat) := memRead_of_lt (by omega)
  have hlo : memRead (s.pc + 1#16) s = .ok (s.mem.read (s.pc.toNat + 1)) := by
    rw [memRead_of_lt (by omega), hsucc]
  simp only [fetchWord, hhi, hlo]

/-- At the last cell the high byte is read, and the low byte is past the end (R46). -/
theorem fetchWord_at_last_cell (h : s.pc = 0x0FFF#16) : fetchWord s = .error (.outOfRangeMemory 0x1000#16) := by
  have hhi : memRead 0x0FFF#16 s = .ok (s.mem.read 0xFFF) := memRead_of_lt (by decide)
  have hlo : memRead (0x0FFF#16 + 1#16) s = .error (.outOfRangeMemory 0x1000#16) := memRead_of_ge (by decide)
  simp only [fetchWord, h, hhi, hlo]

/-- The fetch fault: `pc` and everything else but the dump output as before the step (R82, R160). -/
theorem step_at_last_cell (hx : s.runState = .executing) (hpc : s.pc = 0x0FFF#16) :
    step s = .next (raiseFault (.outOfRangeMemory 0x1000#16) s.clearDump) := by
  have hpc' : s.clearDump.pc = 0x0FFF#16 := hpc
  have hin : ¬ Config.memSize ≤ s.clearDump.pc.toNat := by rw [hpc']; decide
  rw [Laws.step_executing hx, runLoopPass, if_neg hin, fetchWord_at_last_cell hpc']

end

/-- Raising a fault latches it and changes nothing else (R159, R160). -/
theorem faultedFrom_raiseFault (f : Fault) (s : State) :
    FaultedFrom (faultCode f) (faultRecord f) s (raiseFault f s) := by
  refine ⟨rfl, rfl, rfl, fun _ _ => rfl, fun p hp => ?_, fun _ => rfl⟩
  cases p with
  | runState | faultKind | faultInfo => exact absurd (by simp) hp
  | _ => rfl

/-- Settles O13: the bound of an access, then the fetch below and at 4095, then the step there. -/
theorem memoryAccessIsBounded : Obligations.MemoryAccessIsBounded := by
  refine ⟨fun addr b s => ⟨fun h => ?_, fun h => ?_⟩, fun s hpc => ⟨fun ⟨f, hf⟩ => ?_, fun h => ?_⟩, fun s hx hpc => ?_⟩
  · exact ⟨memRead_of_ge h, memWrite_of_ge b h⟩
  · exact ⟨memRead_of_lt h, _, memWrite_of_lt b h, rfl, fun hm =>
      ⟨Laws.write_wf h hm, Laws.read_write hm addr.toNat b⟩⟩
  · exact (Laws.fetchWord_error hpc hf).1
  · exact ⟨_, fetchWord_at_last_cell h⟩
  · exact ⟨_, step_at_last_cell hx hpc, faultedFrom_raiseFault _ _⟩

/-- Settles O14. -/
theorem fetchIsBigEndianAtAnyParity : Obligations.FetchIsBigEndianAtAnyParity :=
  fun _ h => ⟨_, fetchWord_of_lt h, Laws.wordOfBytes_toNat _ _⟩

/-! ### What a run keeps -/

/-- What every step keeps, a run keeps. -/
theorem run_keeps {P : State → Prop} (hstep : ∀ u v, P u → step u = .next v → P v) {k : Nat} {s t : State}
    (hs : P s) (h : run k s = .next t) : P t := by
  induction k generalizing s with
  | zero => cases h; exact hs
  | succ k ih =>
    rw [run] at h
    split at h
    · next u hu => exact ih (hstep s u hs hu) h
    · cases h
    · cases h

theorem Effect.vfMirror_eq {i : Instr} {s t : State} (h : Effect i s t) : t.vfMirror = s.vfMirror := by
  cases h <;> simp

/-- No step writes memory or the parameter (R43, R4): no instruction does, and the rest of a step is the dump output,
`pc` and the fault registers. -/
theorem step_keeps_mem_vfMirror {s t : State} (h : step s = .next t) : t.mem = s.mem ∧ t.vfMirror = s.vfMirror := by
  cases step_effect h with
  | rest | halt | fetchFault | unknown => exact ⟨rfl, rfl⟩
  | instr w i _ _ _ _ he => exact ⟨he.mem_eq, he.vfMirror_eq⟩

/-- Settles O50. -/
theorem memoryIsConstantDuringARun : Obligations.MemoryIsConstantDuringARun := by
  intro k s t h
  refine run_keeps (P := fun u => u.mem = s.mem ∧ u.vfMirror = s.vfMirror) ?_ ⟨rfl, rfl⟩ h
  rintro u v ⟨hmem, hvf⟩ huv
  obtain ⟨hmem', hvf'⟩ := step_keeps_mem_vfMirror huv
  exact ⟨hmem'.trans hmem, hvf'.trans hvf⟩

end Sys2Proof.Proofs
end

section
/-! PROOFS. The decoder as an inversion lemma, the opcode table by its masks, and the statements about the encoding
(spec/30_encoding.md). -/

namespace Sys2Proof.Proofs

open Sys2Proof.Machine

/-! ### Decoding the word of an instruction -/

/-- Each word is decoded by its `op`, and under `op` 0, 5, 8, 9 and E by what selects the instruction there. -/
theorem decodeWord_encode (i : Instr) : decodeWord (encode i) = .ok i := by
  cases i with
  | cls | ret | dump => rfl
  | jp _ | call _ | seImm _ _ | sneImm _ _ | ldImm _ _ | addImm _ _ | ldI _ | jpV0 _ | rnd _ _ | drw _ _ _ | fxxx _ =>
    simp [encode, decodeWord]
  | seReg _ _ => simp [encode, decodeWord, decodeOp5]
  | sneReg _ _ => simp [encode, decodeWord, decodeOp9]
  | skp _ | sknp _ => simp [encode, decodeWord, decodeOpE]
  | ldReg _ _ | orReg _ _ | andReg _ _ | xorReg _ _ | addReg _ _ | subReg _ _ | shr _ _ | subn _ _ | shl _ _ =>
    simp [encode, decodeWord, decodeOp8]

/-- The decoder of byte lists reads one word and leaves the bytes after it (R44, R60). -/
theorem decode_bytes (w : Word) (rest : List Byte) :
    decode (hiByte w :: loByte w :: rest) = (decodeWord w).map (·, rest) := by
  rw [decode, Laws.wordOfBytes_bytes]

/-- Settles O3. -/
theorem decodeOfEncodeIsTheInstruction : Obligations.DecodeOfEncodeIsTheInstruction := fun i =>
  ⟨decodeWord_encode i, fun rest =>
    (decode_bytes (encode i) rest).trans (by rw [decodeWord_encode]; rfl)⟩

/-! ### What the decoder can answer -/

/-- The five classes (a) to (e) of the words that no row defines (R70). -/
def UnknownWord (w : Word) : Prop :=
  (opField w = 0x0#4 ∧ w ≠ 0x00E0#16 ∧ w ≠ 0x00EE#16 ∧ w ≠ 0x0FFF#16) ∨
  (opField w = 0x5#4 ∧ nField w ≠ 0x0#4) ∨
  (opField w = 0x8#4 ∧ nField w ∈ [0x8#4, 0x9#4, 0xA#4, 0xB#4, 0xC#4, 0xD#4, 0xF#4]) ∨
  (opField w = 0x9#4 ∧ nField w ≠ 0x0#4) ∨
  (opField w = 0xE#4 ∧ kkField w ≠ 0x9E#8 ∧ kkField w ≠ 0xA1#8)

/-- What the decoder can answer of a word: an instruction whose encoding it is, or by name that it is of one of the five
classes. -/
inductive DecodeOutcome (w : Word) : Except DecodeError Instr → Prop where
  /-- An instruction, with every bit of the word in it (R64). -/
  | instr (i : Instr) (he : encode i = w) : DecodeOutcome w (.ok i)
  /-- A rejection by name (R70). -/
  | unknown (hu : UnknownWord w) : DecodeOutcome w (.error (.unknownOpcode w))

section
variable {w : Word} {a n : Nibble} {kk : Byte}

theorem nnn_of_fields (ha : opField w = a) : a ++ nnnField w = w := by
  rw [← ha]; exact Laws.fields_nnn w

theorem xkk_of_fields (ha : opField w = a) (hk : kkField w = kk) : a ++ xField w ++ kk = w := by
  rw [← ha, ← hk]; exact Laws.fields_xkk w

theorem xyn_of_fields (ha : opField w = a) (hn : nField w = n) : a ++ xField w ++ yField w ++ n = w := by
  rw [← ha, ← hn]; exact Laws.fields_xyn w

theorem decodeOp0_outcome (h : opField w = 0x0#4) : DecodeOutcome w (decodeOp0 w) := by
  unfold decodeOp0
  split_ifs with h1 h2 h3
  · exact .instr _ h1.symm
  · exact .instr _ h2.symm
  · exact .instr _ h3.symm
  · exact .unknown (.inl ⟨h, h1, h2, h3⟩)

theorem decodeOp5_outcome (h : opField w = 0x5#4) : DecodeOutcome w (decodeOp5 w) := by
  unfold decodeOp5
  split_ifs with hn
  · exact .instr _ (xyn_of_fields h hn)
  · exact .unknown (.inr (.inl ⟨h, hn⟩))

/-- The nibbles `n` that the rows of `op = 8` define, and those of class (c) (R66, R70). -/
theorem op8_nibbles (m : Nibble) :
    m ∈ [0x0#4, 0x1#4, 0x2#4, 0x3#4, 0x4#4, 0x5#4, 0x6#4, 0x7#4, 0xE#4] ∨
    m ∈ [0x8#4, 0x9#4, 0xA#4, 0xB#4, 0xC#4, 0xD#4, 0xF#4] := by
  decide +revert

theorem decodeOp8_outcome (h : opField w = 0x8#4) : DecodeOutcome w (decodeOp8 w) := by
  unfold decodeOp8
  split_ifs
  case neg => exact .unknown (.inr (.inr (.inl ⟨h, (op8_nibbles _).resolve_left (by simp [*])⟩)))
  all_goals exact .instr _ (xyn_of_fields h ‹_›)

theorem decodeOp9_outcome (h : opField w = 0x9#4) : DecodeOutcome w (decodeOp9 w) := by
  unfold decodeOp9
  split_ifs with hn
  · exact .instr _ (xyn_of_fields h hn)
  · exact .unknown (.inr (.inr (.inr (.inl ⟨h, hn⟩))))

theorem decodeOpE_outcome (h : opField w = 0xE#4) : DecodeOutcome w (decodeOpE w) := by
  unfold decodeOpE
  split_ifs with h1 h2
  · exact .instr _ (xkk_of_fields h h1)
  · exact .instr _ (xkk_of_fields h h2)
  · exact .unknown (.inr (.inr (.inr (.inr ⟨h, h1, h2⟩))))

end

/-- Whatever the decoder answers is one of its outcomes. -/
theorem decodeWord_outcome (w : Word) : DecodeOutcome w (decodeWord w) := by
  rcases Laws.nibble_cases (opField w) with h | h | h | h | h | h | h | h | h | h | h | h | h | h | h | h
  · rw [Laws.decodeWord_op0 h]; exact decodeOp0_outcome h
  · rw [Laws.decodeWord_op1 h]; exact .instr _ (nnn_of_fields h)
  · rw [Laws.decodeWord_op2 h]; exact .instr _ (nnn_of_fields h)
  · rw [Laws.decodeWord_op3 h]; exact .instr _ (xkk_of_fields h rfl)
  · rw [Laws.decodeWord_op4 h]; exact .instr _ (xkk_of_fields h rfl)
  · rw [Laws.decodeWord_op5 h]; exact decodeOp5_outcome h
  · rw [Laws.decodeWord_op6 h]; exact .instr _ (xkk_of_fields h rfl)
  · rw [Laws.decodeWord_op7 h]; exact .instr _ (xkk_of_fields h rfl)
  · rw [Laws.decodeWord_op8 h]; exact decodeOp8_outcome h
  · rw [Laws.decodeWord_op9 h]; exact decodeOp9_outcome h
  · rw [Laws.decodeWord_opA h]; exact .instr _ (nnn_of_fields h)
  · rw [Laws.decodeWord_opB h]; exact .instr _ (nnn_of_fields h)
  · rw [Laws.decodeWord_opC h]; exact .instr _ (xkk_of_fields h rfl)
  · rw [Laws.decodeWord_opD h]; exact .instr _ (xyn_of_fields h rfl)
  · rw [Laws.decodeWord_opE h]; exact decodeOpE_outcome h
  · rw [Laws.decodeWord_opF h]; exact .instr _ (nnn_of_fields h)

/-- Settles O4. -/
theorem encodeOfDecodeIsTheWord : Obligations.EncodeOfDecodeIsTheWord := by
  intro w i h
  have ho := decodeWord_outcome w
  rw [h] at ho
  cases ho with
  | instr _ he => exact he

/-! ### The opcode table -/

/-- Two rows that accept one word agree where both their masks look. -/
theorem pattern_and_mask_of_accepts {r q : OpRow} {w : Word} (hr : r.accepts w = true) (hq : q.accepts w = true) :
    r.pattern &&& q.mask = q.pattern &&& r.mask := by
  rw [OpRow.accepts, beq_iff_eq] at hr hq
  rw [← hr, ← hq, BitVec.and_assoc, BitVec.and_assoc, BitVec.and_comm r.mask]

/-- Any two rows of the table differ where both their masks look. -/
theorem opRows_differ (j k : Fin opRows.length)
    (h : opRows[j].pattern &&& opRows[k].mask = opRows[k].pattern &&& opRows[j].mask) : j = k := by
  decide +revert

/-- Settles O6. -/
theorem opcodeRowsAreDisjoint : Obligations.OpcodeRowsAreDisjoint :=
  ⟨rfl, fun _ j k hj hk hr hq => congrArg Fin.val (opRows_differ ⟨j, hj⟩ ⟨k, hk⟩ (pattern_and_mask_of_accepts hr hq))⟩

theorem wordWellFormed_iff (w : Word) : wordWellFormed w = true ↔ ∃ r ∈ opRows, r.accepts w = true :=
  List.any_eq_true

section
variable {r : OpRow} {w : Word}

/-- Where the mask of a row is all ones, a word the row accepts has the bits of the pattern. -/
theorem extract_eq_of_accepts {start len : Nat} (h : r.accepts w = true)
    (hm : r.mask.extractLsb' start len = BitVec.allOnes len) :
    w.extractLsb' start len = r.pattern.extractLsb' start len := by
  rw [OpRow.accepts, beq_iff_eq] at h
  rw [← h, BitVec.extractLsb'_and, hm, BitVec.and_allOnes]

theorem opField_eq_of_accepts (h : r.accepts w = true) (hm : opField r.mask = 0xF#4) :
    opField w = opField r.pattern := extract_eq_of_accepts h hm

theorem nField_eq_of_accepts (h : r.accepts w = true) (hm : nField r.mask = 0xF#4) :
    nField w = nField r.pattern := extract_eq_of_accepts h hm

theorem kkField_eq_of_accepts (h : r.accepts w = true) (hm : kkField r.mask = 0xFF#8) :
    kkField w = kkField r.pattern := extract_eq_of_accepts h hm

theorem eq_pattern_of_accepts (h : r.accepts w = true) (hm : r.mask = 0xFFFF#16) : w = r.pattern := by
  rw [OpRow.accepts, beq_iff_eq, hm] at h
  exact BitVec.and_allOnes.symm.trans h

end

/-- Every row looks at `op` (R64). -/
theorem opRows_mask_op : ∀ r ∈ opRows, opField r.mask = 0xF#4 := by decide

/-- The rows of `op = 0` are three whole words (R65). -/
theorem opRows_op0 : ∀ r ∈ opRows, opField r.pattern = 0x0#4 →
    r.mask = 0xFFFF#16 ∧ r.pattern ∈ [0x00E0#16, 0x00EE#16, 0x0FFF#16] := by decide

/-- The rows of `op = 5` and `op = 9` look at `n`, which is 0 (R67). -/
theorem opRows_op59 : ∀ r ∈ opRows, opField r.pattern = 0x5#4 ∨ opField r.pattern = 0x9#4 →
    nField r.mask = 0xF#4 ∧ nField r.pattern = 0x0#4 := by decide

/-- The rows of `op = 8` look at `n`, which is none of the seven of class (c) (R66). -/
theorem opRows_op8 : ∀ r ∈ opRows, opField r.pattern = 0x8#4 →
    nField r.mask = 0xF#4 ∧ nField r.pattern ∉ [0x8#4, 0x9#4, 0xA#4, 0xB#4, 0xC#4, 0xD#4, 0xF#4] := by decide

/-- The rows of `op = E` look at `kk`, which is `9E` or `A1` (R68). -/
theorem opRows_opE : ∀ r ∈ opRows, opField r.pattern = 0xE#4 →
    kkField r.mask = 0xFF#8 ∧ kkField r.pattern ∈ [0x9E#8, 0xA1#8] := by decide

/-- No word of the five classes is accepted by a row: a row that accepts it has its `op`, and for that `op` looks at what
puts the word in its class. -/
theorem not_unknownWord_of_accepts {r : OpRow} {w : Word} (hr : r ∈ opRows) (ha : r.accepts w = true) :
    ¬ UnknownWord w := by
  have hop := opField_eq_of_accepts ha (opRows_mask_op r hr)
  rintro (⟨h, h1, h2, h3⟩ | ⟨h, hn⟩ | ⟨h, hn⟩ | ⟨h, hn⟩ | ⟨h, h1, h2⟩) <;> rw [hop] at h
  · obtain ⟨hm, hp⟩ := opRows_op0 r hr h
    rw [← eq_pattern_of_accepts ha hm] at hp
    simp [h1, h2, h3] at hp
  · obtain ⟨hm, hp⟩ := opRows_op59 r hr (.inl h)
    exact hn ((nField_eq_of_accepts ha hm).trans hp)
  · obtain ⟨hm, hp⟩ := opRows_op8 r hr h
    exact hp (nField_eq_of_accepts ha hm ▸ hn)
  · obtain ⟨hm, hp⟩ := opRows_op59 r hr (.inr h)
    exact hn ((nField_eq_of_accepts ha hm).trans hp)
  · obtain ⟨hm, hp⟩ := opRows_opE r hr h
    rw [← kkField_eq_of_accepts ha hm] at hp
    simp [h1, h2] at hp

/-- The row of an instruction stands in the table and accepts the word of the instruction, one law per constructor. -/
theorem row_accepts_encode (i : Instr) : i.row ∈ opRows ∧ i.row.accepts (encode i) = true := by
  suffices h : Laws.Encoding.Statement i from ⟨List.contains_iff_mem.mp h.1, h.2⟩
  cases i with
  | cls => exact Laws.Encoding.cls
  | ret => exact Laws.Encoding.ret
  | dump => exact Laws.Encoding.dump
  | jp nnn => exact Laws.Encoding.jp nnn
  | call nnn => exact Laws.Encoding.call nnn
  | seImm x kk => exact Laws.Encoding.seImm x kk
  | sneImm x kk => exact Laws.Encoding.sneImm x kk
  | seReg x y => exact Laws.Encoding.seReg x y
  | ldImm x kk => exact Laws.Encoding.ldImm x kk
  | addImm x kk => exact Laws.Encoding.addImm x kk
  | ldReg x y => exact Laws.Encoding.ldReg x y
  | orReg x y => exact Laws.Encoding.orReg x y
  | andReg x y => exact Laws.Encoding.andReg x y
  | xorReg x y => exact Laws.Encoding.xorReg x y
  | addReg x y => exact Laws.Encoding.addReg x y
  | subReg x y => exact Laws.Encoding.subReg x y
  | shr x y => exact Laws.Encoding.shr x y
  | subn x y => exact Laws.Encoding.subn x y
  | shl x y => exact Laws.Encoding.shl x y
  | sneReg x y => exact Laws.Encoding.sneReg x y
  | ldI nnn => exact Laws.Encoding.ldI nnn
  | jpV0 nnn => exact Laws.Encoding.jpV0 nnn
  | rnd x kk => exact Laws.Encoding.rnd x kk
  | drw x y n => exact Laws.Encoding.drw x y n
  | skp x => exact Laws.Encoding.skp x
  | sknp x => exact Laws.Encoding.sknp x
  | fxxx nnn => exact Laws.Encoding.fxxx nnn

/-- Settles O5: the row of an instruction accepts its word, and an accepted word is of none of the five classes. -/
theorem decoderAgreesWithOpcodeTable : Obligations.DecoderAgreesWithOpcodeTable := by
  intro w
  have ho := decodeWord_outcome w
  generalize decodeWord w = d at ho ⊢
  rw [wordWellFormed_iff]
  cases ho with
  | instr i he =>
    obtain ⟨hr, ha⟩ := row_accepts_encode i
    rw [he] at ha
    exact ⟨⟨fun _ => ⟨i.row, hr, ha⟩, fun _ => ⟨i, rfl⟩⟩, by rintro _ ⟨⟩; exact ha⟩
  | unknown hu =>
    exact ⟨⟨nofun, fun ⟨r, hr, ha⟩ => absurd hu (not_unknownWord_of_accepts hr ha)⟩, nofun⟩

/-- Settles O7: a word that decodes is accepted by its instruction's row, so it is of none of the five classes. -/
theorem unknownWordsAreTheFiveClasses : Obligations.UnknownWordsAreTheFiveClasses := by
  intro w
  change decodeWord w = .error (.unknownOpcode w) ↔ UnknownWord w
  have ho := decodeWord_outcome w
  generalize decodeWord w = d at ho ⊢
  cases ho with
  | instr i he =>
    obtain ⟨hr, ha⟩ := row_accepts_encode i
    exact iff_of_false nofun (not_unknownWord_of_accepts hr (he ▸ ha))
  | unknown hu => exact iff_of_true rfl hu

/-! ### A step over a word -/

/-- A step of an EXECUTING core below the last cell dispatches the word at `pc` (R80, R82). -/
theorem step_eq_dispatchWord {s : State} (hx : s.runState = .executing) (hpc : s.pc.toNat < 4095) :
    step s = dispatchWord (wordOfBytes (s.mem.read s.pc.toNat) (s.mem.read (s.pc.toNat + 1))) (executeState s) := by
  have hin : ¬ Config.memSize ≤ s.clearDump.pc.toNat := Nat.not_le.mpr (Nat.lt_succ_of_lt hpc)
  rw [Laws.step_executing hx, runLoopPass, if_neg hin, fetchWord_of_lt (s := s.clearDump) hpc]
  rfl

/-- Settles O18. -/
theorem stepOverAnUnknownWordFaults : Obligations.StepOverAnUnknownWordFaults := by
  intro s hx hpc hw
  rw [step_eq_dispatchWord hx hpc]
  rcases Laws.dispatchWord_cases _ (executeState s) with ⟨i, hi, -⟩ | ⟨e, -, he⟩
  · exact absurd ((decoderAgreesWithOpcodeTable _).1.mp ⟨i, hi⟩) (Bool.eq_false_iff.mp hw)
  · exact ⟨_, he, faultedFrom_raiseFault _ (executeState s)⟩

/-! ### The fields of a word -/

/-- A bit of a field is the bit of the word at its place. -/
theorem getLsbD_field (w : Word) (start : Nat) {len i : Nat} (h : i < len) :
    (w.extractLsb' start len).getLsbD i = w.getLsbD (start + i) := by
  rw [BitVec.getLsbD_extractLsb', decide_eq_true h, Bool.true_and]

theorem kkField_eq_append (w : Word) : kkField w = yField w ++ nField w := by
  apply BitVec.eq_of_toNat_eq
  rw [Laws.toNat_append_pieces, Laws.kkField_toNat, Laws.yField_toNat, Laws.nField_toNat]
  omega

theorem nnnField_eq_append (w : Word) : nnnField w = xField w ++ yField w ++ nField w := by
  apply BitVec.eq_of_toNat_eq
  rw [Laws.toNat_append_pieces, Laws.toNat_append_pieces, Laws.nnnField_toNat, Laws.xField_toNat, Laws.yField_toNat,
    Laws.nField_toNat]
  omega

/-- Settles O1: a field is cut out of the word at its place, and the worked example is evaluated. -/
theorem fieldsOfAWord : Obligations.FieldsOfAWord := by
  refine ⟨fun w => ⟨?_, ?_, ?_, ?_, ?_, ?_, kkField_eq_append w, nnnField_eq_append w⟩, by decide⟩
  · exact fun _ => getLsbD_field w 12
  · exact fun _ => getLsbD_field w 8
  · exact fun _ => getLsbD_field w 4
  all_goals intro i hi; exact (getLsbD_field w 0 hi).trans (by rw [Nat.zero_add])

/-- Settles O2: eleven closed words, decoded. -/
theorem exampleWordsDecode : Obligations.ExampleWordsDecode := by
  unfold Obligations.ExampleWordsDecode
  decide

end Sys2Proof.Proofs
end

section
/-! PROOFS. The step as an equation at the end of memory and over a word that decodes, and the statements about the
execution cycle (spec/40_execution_cycle.md). -/

namespace Sys2Proof.Proofs

open Sys2Proof.Machine Sys2Proof.Safety

/-! ### A step of an EXECUTING core -/

/-- Past the end of memory a step is the normal halt (R81). -/
theorem step_past_end {s : State} (hx : s.runState = .executing) (hpc : 4096 ≤ s.pc.toNat) :
    step s = .next s.clearDump.halt := by
  have hout : Config.memSize ≤ s.clearDump.pc.toNat := hpc
  rw [Laws.step_executing hx, runLoopPass, if_pos hout]

theorem keepsAllBut_clearDump_halt (s : State) : KeepsAllBut [] [.runState, .dumpReq] s s.clearDump.halt := by
  refine ⟨fun _ _ => rfl, fun p hp => ?_, fun _ => rfl⟩
  cases p with
  | runState | dumpReq => exact absurd (by simp) hp
  | _ => rfl

/-- Settles O17. -/
theorem stepPastTheEndHalts : Obligations.StepPastTheEndHalts :=
  fun s hx hpc => ⟨s.clearDump.halt, step_past_end hx hpc, rfl, rfl, keepsAllBut_clearDump_halt s⟩

/-- A word that decodes is dispatched to its instruction (R84). -/
theorem dispatchWord_of_decode {w : Word} {i : Instr} (h : decodeWord w = .ok i) (s : State) :
    dispatchWord w s = exec i s := by
  rw [dispatchWord, h]

/-- Settles O16: the step dispatches the word at `pc`, from the state with the dump output not asserted and `pc` past
the word. -/
theorem stepRunsTheDecodedInstruction : Obligations.StepRunsTheDecodedInstruction := by
  intro s i hx hpc hd
  calc step s
    _ = dispatchWord (wordOfBytes (s.mem.read s.pc.toNat) (s.mem.read (s.pc.toNat + 1))) (executeState s) :=
      step_eq_dispatchWord hx hpc
    _ = exec i (executeState s) := dispatchWord_of_decode hd _

/-! ### A run of a core at rest -/

/-- A state that a step answers with itself is what every run from it answers. -/
theorem run_of_step_self {s : State} (h : step s = .next s) (k : Nat) : run k s = .next s := by
  induction k with
  | zero => exact Laws.run_zero s
  | succ k ih => rw [Laws.run_succ h, ih]

/-- Settles O19: a step outside EXECUTING answers the same state, and so does any number of them. -/
theorem onlyAnExecutingCoreChanges : Obligations.OnlyAnExecutingCoreChanges :=
  fun _ hs => run_of_step_self (Laws.step_not_executing hs)

end Sys2Proof.Proofs
end

section
/-! PROOFS. Jump targets as numbers, the frame of a jump and the halt after a jump past the end of memory, and the
statements about control transfer (spec/41_control_transfer.md). -/

namespace Sys2Proof.Proofs

open Sys2Proof.Machine Sys2Proof.Safety

/-! ### Jumps -/

theorem toNat_addrOperand (nnn : Addr) : (addrOperand nnn).toNat = nnn.toNat :=
  BitVec.toNat_setWidth_of_le (by decide)

/-- A computed jump target is the sum of two numbers too small to wrap at 16 bits (R93). -/
theorem toNat_indexedTarget (nnn : Addr) (s : State) :
    (indexedTarget nnn s).toNat = nnn.toNat + (s.getV 0#4).toNat := by
  have hn := nnn.isLt
  have hv := (s.getV 0#4).isLt
  have hz : (zextByte (s.getV 0#4)).toNat = (s.getV 0#4).toNat := BitVec.toNat_setWidth_of_le (by decide)
  rw [indexedTarget, BitVec.toNat_add, toNat_addrOperand, hz]
  omega

theorem keepsAllBut_refl (s : State) : KeepsAllBut [] [] s s :=
  ⟨fun _ _ => rfl, fun p _ => by cases p <;> rfl, fun _ => rfl⟩

/-- A jump after other changes adds `pc` to what changed. -/
theorem keepsAllBut_setPc {regs : List RegIdx} {pieces : List Piece} {s t : State} (h : KeepsAllBut regs pieces s t)
    (w : Word) : KeepsAllBut regs (.pc :: pieces) s (t.setPc w) := by
  obtain ⟨hregs, hpieces, hmem⟩ := h
  refine ⟨hregs, fun p hp => ?_, hmem⟩
  have hsame := hpieces p (List.not_mem_of_not_mem_cons hp)
  cases p with
  | pc => exact absurd rfl (List.ne_of_not_mem_cons hp)
  | _ => exact hsame

/-- With `pc` past the end of memory the next step is the normal halt (R81). -/
theorem haltsNext_of_past_end {s : State} (hx : s.runState = .executing) (hpc : 4096 ≤ s.pc.toNat) : HaltsNext s :=
  ⟨_, step_past_end hx hpc, rfl, rfl⟩

/-! ### The statements -/

/-- Settles O23: the jump to its own address, then any other. -/
theorem jpJumpsOrHaltsOnItself : Obligations.JpJumpsOrHaltsOnItself := by
  refine fun nnn => ⟨decodeWord_encode (.jp nnn), fun s =>
    ⟨_, Laws.exec_jp s nnn, keepsAllBut_setPc (keepsAllBut_refl s) _, fun hself => ?_, fun hother => ?_⟩⟩
  · have hpc : addrOperand nnn = s.pcFetch := hself
    rw [if_pos hpc]
    exact ⟨rfl, fun hx => haltsNext_of_past_end hx (Nat.le_refl 4096)⟩
  · have hpc : addrOperand nnn ≠ s.pcFetch := hother
    rw [if_neg hpc]
    exact toNat_addrOperand nnn

/-- Settles O25. -/
theorem jpV0AddsWithoutWrapping : Obligations.JpV0AddsWithoutWrapping :=
  fun nnn => ⟨decodeWord_encode (.jpV0 nnn), fun s =>
    ⟨_, Laws.exec_jpV0 s nnn, toNat_indexedTarget nnn s, keepsAllBut_setPc (keepsAllBut_refl s) _,
      fun hx hend => haltsNext_of_past_end hx (hend.trans_eq (toNat_indexedTarget nnn s).symm)⟩⟩

/-- Settles O22: a return is a pop and then a jump to the popped address. -/
theorem retPopsTheProgramCounter : Obligations.RetPopsTheProgramCounter := by
  refine ⟨decodeWord_encode .ret, fun s => ⟨fun hpos => ?_, fun hsp => ?_⟩⟩
  · have hj : s.sp.val - 1 < 16 := by omega
    have hpop := keepsAllBut_sp s ⟨s.sp.val - 1, by omega⟩
    exact ⟨_, hj, Laws.exec_ret_of_pos hpos hj, rfl, rfl, keepsAllBut_setPc hpop _,
      fun hx hend => haltsNext_of_past_end hx hend⟩
  · exact ⟨_, Laws.exec_ret_of_empty (by rw [hsp]; rfl), faultedFrom_raiseFault .stackUnderflow s⟩

/-- Settles O24: a call is a push of `pc` and then a jump. -/
theorem callPushesAndJumps : Obligations.CallPushesAndJumps := by
  refine fun nnn => ⟨decodeWord_encode (.call nnn), fun s => ⟨fun hlt => ?_, fun hsp => ?_⟩⟩
  · have hpush := keepsAllBut_stack_sp s (s.stack.set s.sp.val s.pc hlt) ⟨s.sp.val + 1, by omega⟩
    refine ⟨_, Laws.exec_call_of_lt nnn hlt, toNat_addrOperand nnn, ?_, ?_, rfl, ?_⟩
    · exact Vector.getElem_set_self hlt
    · exact fun j hj hne => Vector.getElem_set_ne hlt hj hne.symm
    · exact keepsAllBut_setPc hpush _
  · exact ⟨_, Laws.exec_call_of_full nnn (by rw [hsp]; rfl), faultedFrom_raiseFault .stackOverflow s⟩

end Sys2Proof.Proofs
end

section
/-! PROOFS. What a skip on equal or on different bytes answers, and the statements about the conditional skips
(spec/42_conditional_skip.md). -/

namespace Sys2Proof.Proofs

open Sys2Proof.Machine Sys2Proof.Safety

/-! ### A skip on a condition -/

/-- A conditional skip changes `pc` at most (R86): it sets `pc` to the next address, or to what it already is. -/
theorem keepsAllBut_skipIf (c : Bool) (s : State) : KeepsAllBut [] [.pc] s (skipIf c s) := by
  cases c with
  | true => exact keepsAllBut_setPc (keepsAllBut_refl s) (nextPc s.pc)
  | false => exact keepsAllBut_setPc (keepsAllBut_refl s) s.pc

section
variable {i : Instr} {s : State} {a b : Byte}

/-- The instructions of R100 and R102. -/
theorem exec_skips_of_eq (h : exec i s = .next (skipIf (a == b) s)) :
    ∃ t, exec i s = .next t ∧ KeepsAllBut [] [.pc] s t ∧ t.pc = if a = b then s.pc + 2#16 else s.pc := by
  refine ⟨_, h, keepsAllBut_skipIf _ s, ?_⟩
  simp only [Laws.skipIf_pc, beq_iff_eq, nextPc]

/-- The instructions of R101 and R103. -/
theorem exec_skips_of_ne (h : exec i s = .next (skipIf (a != b) s)) :
    ∃ t, exec i s = .next t ∧ KeepsAllBut [] [.pc] s t ∧ t.pc = if a = b then s.pc else s.pc + 2#16 := by
  refine ⟨_, h, keepsAllBut_skipIf _ s, ?_⟩
  simp only [Laws.skipIf_pc, bne_iff_ne, ite_not, nextPc]

end

/-! ### The words of `op` 5 and 9 with `n` not 0 (D4) -/

section
variable (x y : RegIdx) {n : Nibble}

theorem decodeWord_5xyn_unknown (hn : n ≠ 0x0#4) :
    decodeWord (0x5#4 ++ x ++ y ++ n) = .error (.unknownOpcode (0x5#4 ++ x ++ y ++ n)) :=
  (unknownWordsAreTheFiveClasses _).mpr (.inr (.inl ⟨Laws.opField_xyn _ x y n, by rwa [Laws.nField_xyn]⟩))

theorem decodeWord_9xyn_unknown (hn : n ≠ 0x0#4) :
    decodeWord (0x9#4 ++ x ++ y ++ n) = .error (.unknownOpcode (0x9#4 ++ x ++ y ++ n)) :=
  (unknownWordsAreTheFiveClasses _).mpr
    (.inr (.inr (.inr (.inl ⟨Laws.opField_xyn _ x y n, by rwa [Laws.nField_xyn]⟩))))

end

/-! ### The statements -/

/-- Settles O26. -/
theorem seImmSkipsWhenEqual : Obligations.SeImmSkipsWhenEqual := fun x kk =>
  ⟨decodeWord_encode (.seImm x kk), fun s => exec_skips_of_eq (Laws.exec_seImm s x kk)⟩

/-- Settles O27. -/
theorem sneImmSkipsWhenDifferent : Obligations.SneImmSkipsWhenDifferent := fun x kk =>
  ⟨decodeWord_encode (.sneImm x kk), fun s => exec_skips_of_ne (Laws.exec_sneImm s x kk)⟩

/-- Settles O28: `n = 0` is the instruction's own word, and any other `n` is of class (b) of R70. -/
theorem seRegSkipsWhenEqual : Obligations.SeRegSkipsWhenEqual := fun x y =>
  ⟨decodeWord_encode (.seReg x y), fun _ hn => decodeWord_5xyn_unknown x y hn,
    fun s => exec_skips_of_eq (Laws.exec_seReg s x y)⟩

/-- Settles O29: `n = 0` is the instruction's own word, and any other `n` is of class (d) of R70. -/
theorem sneRegSkipsWhenDifferent : Obligations.SneRegSkipsWhenDifferent := fun x y =>
  ⟨decodeWord_encode (.sneReg x y), fun _ hn => decodeWord_9xyn_unknown x y hn,
    fun s => exec_skips_of_ne (Laws.exec_sneReg s x y)⟩

end Sys2Proof.Proofs
end

section
/-! PROOFS. The frames of a register write, an index write, a draw and two changes in a row, the masked byte, and the
statements about the immediate, index and random instructions (spec/43_immediate_index_random.md). -/

namespace Sys2Proof.Proofs

open Sys2Proof.Machine Sys2Proof.Safety

/-! ### Frames -/

theorem keepsAllBut_setV (s : State) (x : RegIdx) (b : Byte) : KeepsAllBut [x] [] s (s.setV x b) :=
  (registerReadsLastWrite s x b).right

theorem keepsAllBut_setIndex (s : State) (w : Word) : KeepsAllBut [] [.index] s (s.setIndex w) := by
  refine ⟨fun _ _ => rfl, fun p hp => ?_, fun _ => rfl⟩
  cases p with
  | index => exact absurd (by simp) hp
  | _ => rfl

theorem keepsAllBut_nextDraw (s : State) : KeepsAllBut [] [.draws] s s.nextDraw := by
  refine ⟨fun _ _ => rfl, fun p hp => ?_, fun _ => rfl⟩
  cases p with
  | draws => exact absurd (by simp) hp
  | _ => rfl

theorem pieceSame_trans {p : Piece} {s t u : State} (h : p.same s t) (h' : p.same t u) : p.same s u := by
  cases p <;> exact Eq.trans h' h

/-- Of two changes in a row, what either may change may have changed. -/
theorem keepsAllBut_trans {regs regs' : List RegIdx} {pieces pieces' : List Piece} {s t u : State}
    (h : KeepsAllBut regs pieces s t) (h' : KeepsAllBut regs' pieces' t u) :
    KeepsAllBut (regs ++ regs') (pieces ++ pieces') s u := by
  obtain ⟨hregs, hpieces, hmem⟩ := h
  obtain ⟨hregs', hpieces', hmem'⟩ := h'
  refine ⟨fun r hr => ?_, fun p hp => ?_, fun a => (hmem' a).trans (hmem a)⟩
  · rw [List.mem_append, not_or] at hr
    exact (hregs' r hr.right).trans (hregs r hr.left)
  · rw [List.mem_append, not_or] at hp
    exact pieceSame_trans (hpieces p hp.left) (hpieces' p hp.right)

/-! ### A byte under a mask -/

theorem masked_and_not_mask (b kk : Byte) : (b &&& kk) &&& ~~~kk = 0x00#8 := by
  calc (b &&& kk) &&& ~~~kk
    _ = b &&& (kk &&& ~~~kk) := BitVec.and_assoc b kk (~~~kk)
    _ = b &&& 0x00#8 := congrArg (b &&& ·) (BitVec.and_not_self kk)
    _ = 0x00#8 := BitVec.and_zero

theorem toNat_masked_le (b kk : Byte) : (b &&& kk).toNat ≤ kk.toNat := by
  rw [BitVec.toNat_and]
  exact Nat.and_le_right

/-! ### The statements -/

/-- Settles O30. -/
theorem ldImmLoadsTheByte : Obligations.LdImmLoadsTheByte := fun x kk =>
  ⟨decodeWord_encode (.ldImm x kk), fun s =>
    ⟨_, Laws.exec_ldImm s x kk, Laws.getV_setV_same s x kk, keepsAllBut_setV s x kk⟩⟩

/-- Settles O31: the sum of bytes is the sum modulo 256, and the frame of the one register write keeps `CF` and every
other register. -/
theorem addImmWrapsWithoutFlag : Obligations.AddImmWrapsWithoutFlag := by
  refine fun x kk => ⟨decodeWord_encode (.addImm x kk), fun s =>
    ⟨_, Laws.exec_addImm s x kk, ?_, keepsAllBut_setV s x _⟩⟩
  rw [Laws.getV_setV_same, BitVec.toNat_add]

/-- Settles O32. -/
theorem ldISetsTheIndexRegister : Obligations.LdISetsTheIndexRegister := fun nnn =>
  ⟨decodeWord_encode (.ldI nnn), fun s =>
    ⟨_, Laws.exec_ldI s nnn, toNat_addrOperand nnn, keepsAllBut_setIndex s _⟩⟩

/-- Settles O33: what is said of the masked byte holds of any byte under the mask, so the draw stays free. -/
theorem rndMasksAFreeByte : Obligations.RndMasksAFreeByte := by
  refine fun x kk => ⟨decodeWord_encode (.rnd x kk), fun s => ?_⟩
  have hv : (s.setV x (s.rndByte &&& kk)).nextDraw.getV x = Config.rnd s.draws &&& kk :=
    Laws.getV_setV_same s x _
  refine ⟨_, Laws.exec_rnd s x kk, hv, ?_, ?_, rfl, keepsAllBut_trans (keepsAllBut_setV s x _) (keepsAllBut_nextDraw _)⟩
  · rw [hv, masked_and_not_mask]
  · rw [hv]
    exact toNat_masked_le _ kk

end Sys2Proof.Proofs
end

section
/-! PROOFS. What is left after a result and a flag are written, the results and flags of the arithmetic instructions as
numbers, and the statements about the register-to-register instructions (spec/44_alu_register.md). -/

namespace Sys2Proof.Proofs

open Sys2Proof.Machine Sys2Proof.Safety

/-! ### A result and then a flag (R129, D2) -/

theorem keepsAllBut_setCf (s : State) (b : Bool) : KeepsAllBut [] [.cf] s (s.setCf b) := by
  refine ⟨fun _ _ => rfl, fun p hp => ?_, fun _ => rfl⟩
  cases p with
  | cf => exact absurd (by simp) hp
  | _ => rfl

/-- The flag write changes `CF`, and VF under `VF_MIRROR` alone (D1). -/
theorem keepsAllBut_setFlag (b : Bool) (s : State) :
    KeepsAllBut (if s.vfMirror then [15#4] else []) [.cf] s (setFlag b s) := by
  unfold setFlag
  split
  · exact keepsAllBut_trans (keepsAllBut_setCf s b) (keepsAllBut_setV _ 15#4 (flagByte b))
  · exact keepsAllBut_setCf s b

section
variable (x : RegIdx) (res : Byte) (flag : Bool) (s : State)

theorem keepsAllBut_writeResultAndFlag :
    KeepsAllBut (flagDests x s) [.cf] s (writeResultAndFlag x res flag s) := by
  have hdests : flagDests x s = [x] ++ if (s.setV x res).vfMirror then [15#4] else [] := by
    rw [Laws.setV_vfMirror, flagDests]
    split <;> rfl
  rw [hdests]
  exact keepsAllBut_trans (keepsAllBut_setV s x res) (keepsAllBut_setFlag flag (s.setV x res))

/-- The flag goes last, so `V[x]` keeps the result unless it is VF and holds the flag (D2). -/
theorem resultThenFlag_writeResultAndFlag : ResultThenFlag x res flag s (writeResultAndFlag x res flag s) := by
  refine ⟨Laws.writeResultAndFlag_cf s x res flag, fun hx => ?_, fun hm => ?_,
    keepsAllBut_writeResultAndFlag x res flag s⟩
  · rw [Laws.getV_writeResultAndFlag, if_neg hx, if_pos rfl]
  · rw [Laws.getV_writeResultAndFlag, if_pos ⟨hm, rfl⟩, flagByte]

end

/-! ### Results and flags as numbers -/

section
variable (a b : Byte)

theorem toNat_sum9 : (sum9 a b).toNat = a.toNat + b.toNat := by
  unfold sum9
  bv_omega

theorem addResult_eq : addResult a b = BitVec.ofNat 8 (a.toNat + b.toNat) :=
  BitVec.eq_of_toNat_eq (by rw [addResult, BitVec.toNat_setWidth, toNat_sum9, BitVec.toNat_ofNat])

/-- Bit 8 of the 9-bit sum is its top bit. -/
theorem addFlag_eq : addFlag a b = decide (255 < a.toNat + b.toNat) := by
  have hmsb : addFlag a b = (sum9 a b).msb := rfl
  rw [hmsb, BitVec.msb_eq_decide, toNat_sum9]
  rfl

theorem subResult_eq : subResult a b = BitVec.ofNat 8 (256 + a.toNat - b.toNat) := by
  have hb : b.toNat < 256 := b.isLt
  rw [subResult, BitVec.sub_def, ← Nat.sub_add_comm hb.le]

theorem shrResult_eq : shrResult a = BitVec.ofNat 8 (a.toNat / 2) := by
  rw [shrResult]
  bv_omega

theorem shrFlag_eq : shrFlag a = decide (a.toNat % 2 = 1) := by
  rw [shrFlag, BitVec.getLsbD, Nat.testBit_zero]

theorem shlResult_eq : shlResult a = BitVec.ofNat 8 (2 * a.toNat) := by
  rw [shlResult]
  bv_omega

/-- The bit shifted out is the byte's top bit. -/
theorem shlFlag_eq : shlFlag a = decide (128 ≤ a.toNat) := by
  have hmsb : shlFlag a = a.msb := rfl
  rw [hmsb, BitVec.msb_eq_decide]

end

/-! ### What an instruction with one result answers -/

section
variable {i : Instr} {s : State} {x : RegIdx}

/-- The instructions of R121 to R123. -/
theorem exec_writes_bits {res : Byte} {f : Nat → Bool} (h : exec i s = .next (s.setV x res))
    (hbits : ∀ j, res.getLsbD j = f j) :
    ∃ t, exec i s = .next t ∧ (∀ j, j < 8 → (t.getV x).getLsbD j = f j) ∧ KeepsAllBut [x] [] s t := by
  refine ⟨_, h, fun j _ => ?_, keepsAllBut_setV s x res⟩
  rw [Laws.getV_setV_same, hbits]

/-- The instructions of R124 to R128. -/
theorem exec_writes_result_and_flag {res res' : Byte} {flag flag' : Bool}
    (h : exec i s = .next (writeResultAndFlag x res flag s)) (hres : res = res') (hflag : flag = flag') :
    ∃ t, exec i s = .next t ∧ ResultThenFlag x res' flag' s t := by
  subst hres hflag
  exact ⟨_, h, resultThenFlag_writeResultAndFlag x res flag s⟩

end

/-! ### The statements -/

/-- Settles O34. -/
theorem ldRegCopies : Obligations.LdRegCopies := fun x y =>
  ⟨decodeWord_encode (.ldReg x y), fun s =>
    ⟨_, Laws.exec_ldReg s x y, Laws.getV_setV_same s x _, keepsAllBut_setV s x _⟩⟩

/-- Settles O35. -/
theorem orRegIsBitwiseWithoutFlag : Obligations.OrRegIsBitwiseWithoutFlag := fun x y =>
  ⟨decodeWord_encode (.orReg x y), fun s =>
    exec_writes_bits (Laws.exec_orReg s x y) fun _ => BitVec.getLsbD_or⟩

/-- Settles O36. -/
theorem andRegIsBitwiseWithoutFlag : Obligations.AndRegIsBitwiseWithoutFlag := fun x y =>
  ⟨decodeWord_encode (.andReg x y), fun s =>
    exec_writes_bits (Laws.exec_andReg s x y) fun _ => BitVec.getLsbD_and⟩

/-- Settles O37. -/
theorem xorRegIsBitwiseWithoutFlag : Obligations.XorRegIsBitwiseWithoutFlag := fun x y =>
  ⟨decodeWord_encode (.xorReg x y), fun s =>
    exec_writes_bits (Laws.exec_xorReg s x y) fun _ => BitVec.getLsbD_xor⟩

/-- Settles O38: the carry is bit 8 of the 9-bit sum, which holds the sum of two bytes in full. -/
theorem addRegSetsTheCarryOut : Obligations.AddRegSetsTheCarryOut := fun x y =>
  ⟨decodeWord_encode (.addReg x y), fun s =>
    exec_writes_result_and_flag (Laws.exec_addReg s x y) (addResult_eq _ _) (addFlag_eq _ _)⟩

/-- Settles O39: the flag is by definition the strict comparison of the old values. -/
theorem subRegFlagsStrictlyGreater : Obligations.SubRegFlagsStrictlyGreater := fun x y =>
  ⟨decodeWord_encode (.subReg x y), fun s =>
    exec_writes_result_and_flag (Laws.exec_subReg s x y) (subResult_eq _ _) rfl⟩

/-- Settles O40: neither the result nor the flag of `SHR` is a function of `V[y]`. -/
theorem shrHalvesAndFlagsTheLowBit : Obligations.ShrHalvesAndFlagsTheLowBit := fun x y =>
  ⟨decodeWord_encode (.shr x y), fun s =>
    exec_writes_result_and_flag (Laws.exec_shr s x y) (shrResult_eq _) (shrFlag_eq _)⟩

/-- Settles O41: `SUB` with its operands exchanged. -/
theorem subnSubtractsInReverse : Obligations.SubnSubtractsInReverse := fun x y =>
  ⟨decodeWord_encode (.subn x y), fun s =>
    exec_writes_result_and_flag (Laws.exec_subn s x y) (subResult_eq _ _) rfl⟩

/-- Settles O42: neither the result nor the flag of `SHL` is a function of `V[y]`. -/
theorem shlDoublesAndFlagsTheHighBit : Obligations.ShlDoublesAndFlagsTheHighBit := fun x y =>
  ⟨decodeWord_encode (.shl x y), fun s =>
    exec_writes_result_and_flag (Laws.exec_shl s x y) (shlResult_eq _) (shlFlag_eq _)⟩

end Sys2Proof.Proofs
end

section
/-! PROOFS. The frame of the dump request, the fault of a pattern that is defined and not implemented, and the statements
about the debug dump and those patterns (spec/45_debug_and_unimplemented.md). -/

namespace Sys2Proof.Proofs

open Sys2Proof.Machine Sys2Proof.Safety

theorem keepsAllBut_assertDump (s : State) : KeepsAllBut [] [.dumpReq] s s.assertDump := by
  refine ⟨fun _ _ => rfl, fun p hp => ?_, fun _ => rfl⟩
  cases p with
  | dumpReq => exact absurd (by simp) hp
  | _ => rfl

/-- The fault the instructions of R141 to R145 take records their own word (R147, R155). -/
theorem exec_faults_with_own_word {i : Instr} {s : State} (h : exec i s = .next (raiseUnimplemented i s)) :
    ∃ t, exec i s = .next t ∧ FaultedFrom 5#3 (encode i) s t :=
  ⟨_, h, faultedFrom_raiseFault (.unimplementedOpcode (encode i)) s⟩

/-- Settles O43. -/
theorem dumpOnlyAssertsTheRequest : Obligations.DumpOnlyAssertsTheRequest :=
  ⟨decodeWord_encode .dump, fun s => ⟨_, Laws.exec_dump s, rfl, keepsAllBut_assertDump s⟩⟩

/-- Settles O44: each pattern's word is the encoding of its instruction, so it decodes to that instruction and is the
word the fault records. -/
theorem unimplementedPatternsFault : Obligations.UnimplementedPatternsFault := by
  refine ⟨⟨?cls, ?drw, ?skp, ?sknp, ?fxxx⟩, fun s => ⟨?clsFault, ?drwFault, ?skpFault, ?sknpFault, ?fxxxFault⟩⟩
  case cls => exact decodeWord_encode .cls
  case drw => exact fun x y n => decodeWord_encode (.drw x y n)
  case skp => exact fun x => decodeWord_encode (.skp x)
  case sknp => exact fun x => decodeWord_encode (.sknp x)
  case fxxx => exact fun nnn => decodeWord_encode (.fxxx nnn)
  case clsFault => exact exec_faults_with_own_word (Laws.exec_cls s)
  case drwFault => exact fun x y n => exec_faults_with_own_word (Laws.exec_drw s x y n)
  case skpFault => exact fun x => exec_faults_with_own_word (Laws.exec_skp s x)
  case sknpFault => exact fun x => exec_faults_with_own_word (Laws.exec_sknp s x)
  case fxxxFault => exact fun nnn => exec_faults_with_own_word (Laws.exec_fxxx s nnn)

end Sys2Proof.Proofs
end

section
/-! PROOFS. The faults a step can raise, said once as an inversion lemma, the next state that every instruction, step and
run has, and the statements about the faults (spec/60_exceptions.md). -/

namespace Sys2Proof.Proofs

open Sys2Proof.Machine Sys2Proof.Safety

/-! ### The faults a step can raise -/

/-- The faults of the execute phase, with what each says of the state it is raised in (R153 to R156). -/
inductive ExecuteFault (s : State) : Fault → Prop where
  /-- `CALL` with a full stack (R153). -/
  | overflow (hsp : s.sp = 16) : ExecuteFault s .stackOverflow
  /-- `RET` with an empty stack (R154). -/
  | underflow (hsp : s.sp = 0) : ExecuteFault s .stackUnderflow
  /-- A pattern that is defined and not implemented (R155). -/
  | unimplemented (i : Instr) (hi : i.isUnimplemented = true) : ExecuteFault s (.unimplementedOpcode (encode i))
  /-- A word no row accepts (R156). -/
  | unknown (w : Word) (hw : wordWellFormed w = false) : ExecuteFault s (.unknownOpcode w)

/-- The FAULTED states a step of an EXECUTING core can answer: only the fetch faults with `pc` not advanced (R160). -/
inductive StepFault (s : State) : State → Prop where
  | fetch (hpc : s.pc = 0x0FFF#16) : StepFault s (raiseFault (.outOfRangeMemory 0x1000#16) s.clearDump)
  | execute {f : Fault} (hf : ExecuteFault (executeState s) f) : StepFault s (raiseFault f (executeState s))

theorem wordWellFormed_eq_false_of_decode_error {w : Word} {e : DecodeError} (h : decodeWord w = .error e) :
    wordWellFormed w = false := by
  rw [Bool.eq_false_iff]
  intro hw
  obtain ⟨i, hi⟩ := (decoderAgreesWithOpcodeTable w).1.mpr hw
  exact nomatch h.symm.trans hi

/-- An instruction that ends in FAULTED raised a fault of the execute phase in the state before it (R87, R160). -/
theorem Effect.executeFault {i : Instr} {s t : State} (he : Effect i s t) (hs : s.runState ≠ .faulted)
    (ht : t.runState = .faulted) : ∃ f, ExecuteFault s f ∧ t = raiseFault f s := by
  cases he with
  | overflow _ _ hsp => exact ⟨_, .overflow (Fin.ext hsp), rfl⟩
  | underflow _ hsp => exact ⟨_, .underflow (Fin.ext hsp), rfl⟩
  | unimplemented hi => exact ⟨_, .unimplemented i hi, rfl⟩
  | _ => exact absurd ht (by simpa using hs)

/-- A step of an EXECUTING core that ends in FAULTED raised one of the faults a step can raise. -/
theorem step_fault {s t : State} (h : step s = .next t) (hx : s.runState = .executing) (ht : t.runState = .faulted) :
    StepFault s t := by
  cases step_effect h with
  | rest hr => exact absurd hx hr
  | halt => exact nomatch ht
  | fetchFault _ hpc => exact .fetch hpc
  | unknown w e _ _ _ hd => exact .execute (.unknown w (wordWellFormed_eq_false_of_decode_error hd))
  | instr w i _ _ _ _ he =>
    have hs : (executeState s).runState ≠ .faulted := fun hr => nomatch hx.symm.trans hr
    obtain ⟨f, hf, rfl⟩ := he.executeFault hs ht
    exact .execute hf

/-! ### The latched record -/

/-- Each fault of the execute phase is recorded with the state and the info that raise it. -/
theorem ExecuteFault.faultRecordTrue {s : State} {f : Fault} (h : ExecuteFault s f) :
    FaultRecordTrue (raiseFault f s) := by
  intro _
  cases h with
  | overflow hsp => exact .inr (.inl ⟨rfl, rfl, hsp⟩)
  | underflow hsp => exact .inr (.inr (.inl ⟨rfl, rfl, hsp⟩))
  | unimplemented i hi => exact .inr (.inr (.inr (.inl ⟨rfl, i, decodeWord_encode i, hi⟩)))
  | unknown w hw => exact .inr (.inr (.inr (.inr ⟨rfl, hw⟩)))

theorem StepFault.faultRecordTrue {s t : State} (h : StepFault s t) : FaultRecordTrue t := by
  cases h with
  | fetch hpc => exact fun _ => .inl ⟨rfl, rfl, hpc⟩
  | execute hf => exact hf.faultRecordTrue

/-- Settles O53: a fault is recorded truly when it is raised, and FAULTED is left by no step (R161). -/
theorem stepKeepsFaultRecordTrue : Obligations.StepKeepsFaultRecordTrue := by
  intro s t hs h ht
  by_cases hx : s.runState = .executing
  · exact (step_fault h hx ht).faultRecordTrue ht
  · rw [Laws.step_not_executing hx] at h
    cases h
    exact hs ht

/-! ### Precise faults -/

/-- The frame of a fault raised after the dump output is cleared and `pc` is set (R160). -/
theorem keepsAllBut_raiseFault_setPc_clearDump (f : Fault) (w : Word) (s : State) :
    KeepsAllBut [] [.pc, .runState, .faultKind, .faultInfo, .dumpReq] s (raiseFault f (s.clearDump.setPc w)) := by
  refine ⟨fun _ _ => rfl, fun p hp => ?_, fun _ => rfl⟩
  cases p with
  | pc | runState | faultKind | faultInfo | dumpReq => exact absurd (by simp) hp
  | _ => rfl

/-- Code 1 is the fetch's alone (R151). -/
theorem ExecuteFault.faultCode_ne_one {s : State} {f : Fault} (h : ExecuteFault s f) : faultCode f ≠ 1#3 := by
  cases h <;> simp [faultCode]

/-- Settles O49: the fetch fault leaves `pc`, and every other fault of a step is raised with `pc` past the word. -/
theorem faultsArePrecise : Obligations.FaultsArePrecise := by
  intro s t hx h ht
  cases step_fault h hx ht with
  | fetch hpc => exact ⟨keepsAllBut_raiseFault_setPc_clearDump _ s.pc s, fun _ => ⟨rfl, hpc⟩, fun hk => absurd rfl hk⟩
  | execute hf =>
    exact ⟨keepsAllBut_raiseFault_setPc_clearDump _ _ s, fun hk => absurd hk hf.faultCode_ne_one, fun _ => rfl⟩

/-- Settles O15. -/
theorem raiseLatchesCodeAndInfo : Obligations.RaiseLatchesCodeAndInfo :=
  ⟨faultedFrom_raiseFault, fun _ => ⟨rfl, rfl, rfl, rfl, rfl, rfl, rfl, rfl⟩, rfl, rfl, rfl, rfl, rfl⟩

/-! ### Progress -/

/-- The end of an instruction is a next state, whether its operations fail or not (R159). -/
theorem completeOrRaise_has_next (s : State) (r : Except Fault State) : ∃ t, completeOrRaise s r = .next t := by
  cases r with
  | ok t => exact ⟨t, rfl⟩
  | error f => exact ⟨raiseFault f s, rfl⟩

theorem exec_has_next (i : Instr) (s : State) : ∃ t, exec i s = .next t := by
  cases i with
  | ret | call => exact completeOrRaise_has_next s _
  | _ => exact ⟨_, rfl⟩

theorem step_has_next (s : State) : ∃ t, step s = .next t := by
  by_cases hx : s.runState = .executing
  · rw [Laws.step_executing hx]
    rcases Laws.runLoopPass_cases s.clearDump with
      ⟨-, e⟩ | ⟨-, e⟩ | ⟨w, err, -, -, -, e⟩ | ⟨w, i, -, -, -, e⟩ <;> rw [e]
    · exact ⟨_, rfl⟩
    · exact ⟨_, rfl⟩
    · exact ⟨_, rfl⟩
    · exact exec_has_next i _
  · exact ⟨s, Laws.step_not_executing hx⟩

/-- Settles O20, by induction on the number of steps. -/
theorem everyRunHasANextState : Obligations.EveryRunHasANextState := by
  intro k
  induction k with
  | zero => exact fun s => ⟨s, Laws.run_zero s⟩
  | succ k ih =>
    intro s
    obtain ⟨t, h⟩ := step_has_next s
    rw [Laws.run_succ h]
    exact ih t

end Sys2Proof.Proofs
end

section
/-! PROOFS. What the loader's byte writes leave in memory, the load and the start as equations, and the statements about
launching a program (spec/70_reset_and_hazards.md R182 to R184). -/

namespace Sys2Proof.Proofs

open Sys2Proof.Machine Sys2Proof.Safety

/-! ### The start -/

theorem startCore_of_idle {s : State} (h : s.runState = .idle) : startCore s = { s with runState := .executing } :=
  if_pos h

theorem startCore_of_not_idle {s : State} (h : s.runState ≠ .idle) : startCore s = s := if_neg h

/-- A core started on zero memory faults on the word 0, which no row of the opcode table accepts (R184, D9). -/
theorem startCore_faults_on_zero_memory {s : State} (hs : s.runState = .idle) (hmem : ∀ a : Nat, s.mem.read a = 0x00#8)
    (hpc : s.pc.toNat < 4095) :
    ∃ t, step (startCore s) = .next t ∧ t.runState = .faulted ∧ t.faultKind = 6#3 ∧ t.faultInfo = 0x0000#16 ∧
      t.pc = s.pc + 2#16 := by
  rw [startCore_of_idle hs]
  have hword : wordOfBytes (s.mem.read s.pc.toNat) (s.mem.read (s.pc.toNat + 1)) = 0x0000#16 := by
    rw [hmem, hmem]
    rfl
  obtain ⟨t, ht, hrun, hkind, hinfo, -, hkeep, -⟩ :=
    stepOverAnUnknownWordFaults { s with runState := .executing } rfl hpc (by rw [hword]; decide)
  exact ⟨t, ht, hrun, hkind, hinfo.trans hword, hkeep .pc (by decide)⟩

/-! ### The loader's byte writes (R182) -/

section
variable {s : State} (hs : s.runState = .idle)
include hs

/-- In IDLE the loader's byte writes change memory and nothing else. -/
theorem hostWriteBytes_eq (addr : Addr) (bs : List Byte) :
    hostWriteBytes addr bs s = { s with mem := (hostWriteBytes addr bs s).mem } := by
  induction bs generalizing addr s with
  | nil => rfl
  | cons b bs ih =>
    rw [hostWriteBytes, hostWrite_of_idle addr b hs]
    exact ih (s := { s with mem := s.mem.write addr.toNat b }) hs _

/-- The first byte goes to the first address, and the others follow it. -/
theorem hostWriteBytes_cons {n : Nat} (hn : n < 4096) (b : Byte) (bs : List Byte) :
    hostWriteBytes (BitVec.ofNat 12 n) (b :: bs) s =
      hostWriteBytes (BitVec.ofNat 12 (n + 1)) bs { s with mem := s.mem.write n b } := by
  have hn' : (BitVec.ofNat 12 n).toNat = n := Nat.mod_eq_of_lt hn
  rw [hostWriteBytes, hostWrite_of_idle _ b hs, hn', BitVec.ofNat_add]

variable (hm : s.mem.wf = true) {n : Nat} {bs : List Byte} (hfit : n + bs.length ≤ 4096)
include hm hfit

/-- The loader's byte writes leave every cell outside their range as it was. -/
theorem read_hostWriteBytes_outside {a : Nat} (ha : a < n ∨ n + bs.length ≤ a) :
    (hostWriteBytes (BitVec.ofNat 12 n) bs s).mem.read a = s.mem.read a := by
  induction bs generalizing n s with
  | nil => rfl
  | cons b bs ih =>
    rw [List.length_cons] at hfit ha
    rw [hostWriteBytes_cons hs (by omega),
      ih (s := { s with mem := s.mem.write n b }) hs (Laws.write_wf (show n < 4096 by omega) hm) (by omega) (by omega)]
    exact (Laws.read_write hm n b a).trans (if_neg (by omega))

/-- The loader's byte writes leave the bytes in order from the first address on. -/
theorem read_hostWriteBytes_inside {k : Nat} (hk : k < bs.length) :
    (hostWriteBytes (BitVec.ofNat 12 n) bs s).mem.read (n + k) = bs[k] := by
  induction bs generalizing n s k with
  | nil => exact absurd hk (Nat.not_lt_zero k)
  | cons b bs ih =>
    rw [List.length_cons] at hfit hk
    have hm' : (s.mem.write n b).wf = true := Laws.write_wf (show n < 4096 by omega) hm
    rw [hostWriteBytes_cons hs (by omega)]
    cases k with
    | zero =>
      rw [read_hostWriteBytes_outside (s := { s with mem := s.mem.write n b }) hs hm' (by omega) (by omega)]
      exact (Laws.read_write hm n b (n + 0)).trans (if_pos rfl)
    | succ k =>
      rw [← Nat.add_assoc, Nat.add_right_comm]
      exact ih (s := { s with mem := s.mem.write n b }) hs hm' (by omega) (by omega)

end

/-! ### The load (R182) -/

/-- An image that fits is written from `0x200` on, and `pc` is set there. -/
theorem loadImage_of_fits {image : List Byte} {s : State} (hfit : image.length ≤ 3584) (hs : s.runState = .idle) :
    loadImage image s =
      .ok { s with mem := (hostWriteBytes Config.loadAddr image s).mem, pc := 0x0200#16 } := by
  have hwf : imageWellFormed image = true := decide_eq_true hfit
  have hidle : (hostWriteBytes Config.loadAddr image s).runState = .idle := by
    rw [hostWriteBytes_eq hs]
    exact hs
  rw [loadImage, if_pos hwf, hostSetPc_of_idle _ hidle]
  exact congrArg (fun t => Except.ok (t.setPc 0x0200#16)) (hostWriteBytes_eq hs _ _)

theorem loadImage_of_too_long {image : List Byte} (s : State) (hlong : 3584 < image.length) :
    loadImage image s = .error .imageLoadFailure := by
  have hwf : ¬ imageWellFormed image = true := fun h => absurd (of_decide_eq_true h) (Nat.not_le.mpr hlong)
  rw [loadImage, if_neg hwf]

/-! ### The statements -/

/-- Settles O58: a reset leaves memory zero and in canonical form, so the load's bytes are all that stands in it. -/
theorem loadedImageLaunches : Obligations.LoadedImageLaunches := by
  refine fun s image => ⟨fun hlen => ⟨_, loadImage_of_fits hlen rfl, ?_⟩, loadImage_of_too_long s⟩
  rw [startCore_of_idle rfl]
  obtain ⟨hmem, hv, hstack, hsp, -, hindex, hcf, -, hkind, hinfo⟩ := resetZeroesEveryPiece.2 s
  have hfit : 0x200 + image.length ≤ 4096 := by omega
  refine ⟨fun k hk => ?_, fun a ha => ?_, hv, hstack, hsp, rfl, hindex, hcf, rfl, hkind, hinfo⟩
  · exact read_hostWriteBytes_inside (s := resetCore s) rfl rfl hfit hk
  · exact (read_hostWriteBytes_outside (s := resetCore s) rfl rfl hfit ha).trans (hmem a)

/-- Settles O57: after reset, and after the load of an empty image, memory is zero and `pc` is `0x0000` and `0x0200`. -/
theorem startOnlyLeavesIdle : Obligations.StartOnlyLeavesIdle :=
  ⟨fun _ => ⟨startCore_of_idle, startCore_of_not_idle⟩,
    startCore_faults_on_zero_memory rfl (fun _ => rfl) (by decide),
    _, (startCore_faults_on_zero_memory (s := { State.reset with pc := 0x0200#16 }) rfl (fun _ => rfl) (by decide)).imp
      fun _ h => ⟨loadImage_of_fits (Nat.zero_le _) rfl, h⟩⟩

end Sys2Proof.Proofs
end
